-- ==== Sys2Proof/Word.lean ====
section
/-!
DEFINITION. The words of the encoder: the byte (00_scope.md R8), the nibble, the two-valued mode of a byte (10_state.md R31,
41_sendbyte_overlay.md R133) and the transport's answer to a write (44_write_adapter.md R194).
-/

namespace Sys2Proof

/-- A byte, 8 bits, bit 0 least significant (R8). -/
abbrev Byte := BitVec 8

/-- Four bits: one half of a byte as the display takes it (R55). -/
abbrev Nibble := BitVec 4

/-- Whether a byte is a command or a character: it selects the RS line, `r` of a packet (R81, R133). -/
inductive Mode where
  | command
  | data
  deriving DecidableEq, Repr, Inhabited

/-- The transport's answer to one bus write (R194). -/
inductive Answer where
  | ok
  | err
  deriving DecidableEq, Repr, Inhabited

end Sys2Proof
end

