-- ==== Sys2Proof/Config.lean ====
section
/-!
DEFINITION. What a build of the encoder fixes (00_scope.md R7, 10_state.md R31 to R35), the two read-only tables, and the free values:
what the spec leaves open and gives no default for (93_implementation_defined.md U1 to U3, U8). A free value has no body, so no proof
can know it.
-/

namespace Sys2Proof

/-- The parameters of a build that have a default in the spec (R7, R32, R33). State carries them and no step changes them (log 12). -/
structure Build where
  i2cAddr : BitVec 7
  i2cHz : Nat
  eDelayUnits : Nat
  ePulseUnits : Nat
  powerUpMs : Nat
  deriving DecidableEq, Repr

/-- The defaults of R7: address 0x27, 400 kHz, waits of 1 unit, 1 unit and 50 ms. -/
def Config.defaultBuild : Build :=
  { i2cAddr := 0x27, i2cHz := 400000, eDelayUnits := 1, ePulseUnits := 1, powerUpMs := 50 }

/-- The lower bounds the spec puts on the waits (R33): 1 unit, 1 unit, 50 ms. -/
abbrev Build.Legal (b : Build) : Prop :=
  1 ≤ b.eDelayUnits ∧ 1 ≤ b.ePulseUnits ∧ 50 ≤ b.powerUpMs

/-- `ENABLE_BIT` (R31, R82). -/
def Config.enableBit : Byte := 0x04

/-- `MODE_CMD` (R31, R82). -/
def Config.modeCmd : Byte := 0x00

/-- `MODE_DATA` (R31, R82). -/
def Config.modeData : Byte := 0x01

/-- `BL_ON` (R31). -/
def Config.blOn : Byte := 0x08

/-- `BL_OFF` (R31). -/
def Config.blOff : Byte := 0x00

/-- `HI_MASK` (R31). -/
def Config.hiMask : Byte := 0xF0

/-- `TEXT_MAX`: the longest text a PRINT may carry, by the width of `len` (R7, R91). -/
def Config.textMax : Nat := 65535

/-- The initialisation table `INIT` (R34). -/
def Config.init : List Byte := [0x33, 0x32, 0x06, 0x0C, 0x28, 0x01]

/-- The line-address table `LINE` (R35): no other line has an entry. -/
def Config.lineByte (line : BitVec 8) : Option Byte :=
  if line = 1#8 then some 0x80 else if line = 2#8 then some 0xC0 else none

/-- Where the display's cursor stands, symbolically (R38): so many data bytes after a clear, or after the address byte `base`.
The spec gives no map of the DDRAM, and none is used (log 21). -/
inductive Cursor where
  /-- `n` data bytes after "clear display, cursor home" (R87). -/
  | home (n : Nat)
  /-- `n` data bytes after the address command `base`. -/
  | line (base : Byte) (n : Nat)
  deriving DecidableEq, Repr, Inhabited

/-- What the model carries of the display itself (R38): its nibble phase, with the half byte it holds (`none`: it expects the high
nibble), its cursor, and its busy time: whether it may still be at its last clear command (R247). -/
structure Device where
  half : Option (Mode × Nibble)
  cursor : Cursor
  busy : Bool
  deriving DecidableEq, Repr, Inhabited

/-- Free value: did the failed, or cut short, write number `n` reach the expander (U3, D22; log 5). -/
opaque Config.failedWriteLands : Nat → Bool

/-- Free value: the display after a bus error, an operation cut short or a byte that reached it while it was busy, draw number `n` (U1, U2, U7;
log 6). -/
opaque Config.freeDevice : Nat → Device

/-- Free value: the cursor after a command byte that the block never sends, draw number `n` (R87; log 21). -/
opaque Config.freeCursor : Nat → Cursor

/-- Free value: the clock cycles of `n` time units, rounded up; `T_UNIT`, `F_CLK` and `TICK_CYCLES` are open (R7, R157; log 13). -/
opaque Config.cyclesOfUnits : Nat → Nat

/-- Free value: the clock cycles of `n` milliseconds, rounded up (R157; log 13). -/
opaque Config.cyclesOfMs : Nat → Nat

end Sys2Proof
end

