-- ==== Sys2Proof/Syntax.lean ====
section
/-!
DEFINITION. The operations, one constructor of `Instr` for each row of spec/opcode_table.json (30_encoding.md R100), and the words they
travel as. Four formats hold them, each on a port of its own (R80): the host's command word `CW`, the sequencer's `UOP`, the command byte
`LCDCMD`, and the packet `PKT` that goes to the bus.
-/

namespace Sys2Proof

/-- One constructor for each row of the opcode table. -/
inductive Instr where
  /-- CONSTRUCT(width, height, backlight) (R90, R110). -/
  | construct (width height : BitVec 8) (backlight : Bool)
  /-- PRINT(text, line) (R91, R170). -/
  | print (text : List Byte) (line : BitVec 8)
  /-- CLEAR() (R92, R176). -/
  | clear
  /-- A command word with bits 31 to 30 = 11, and its other bits (R94, R225). -/
  | cwReserved (payload : BitVec 30)
  /-- SENDBYTE(value, mode) (R88, R130). -/
  | sendbyte (mode : Mode) (value : Byte)
  /-- First write of a nibble: nibble `d`, backlight `b`, RS `r` (R81, R135). -/
  | pktPresent (d : Nibble) (b : Bool) (r : Mode)
  /-- Second write of a nibble, Enable set (R81, R150). -/
  | pktEset (d : Nibble) (b : Bool) (r : Mode)
  /-- Third write of a nibble, Enable clear: the one the display latches on (R81, R150). -/
  | pktEclr (d : Nibble) (b : Bool) (r : Mode)
  /-- 0x33, "force 4-bit interface reset" (R87). -/
  | lcdReset4
  /-- 0x32, "confirm 4-bit mode" (R87). -/
  | lcdSet4
  /-- 0x06, "entry mode: cursor moves right, no display shift" (R87). -/
  | lcdEntry
  /-- 0x0C, "display on, cursor off, blink off" (R87). -/
  | lcdDispon
  /-- 0x28, "function set: 4-bit, 2-line, 5x8 font" (R87). -/
  | lcdFunc
  /-- 0x01, "clear display, cursor home" (R87). -/
  | lcdClear
  /-- 0x80, the address byte of line 1 (R87). -/
  | lcdLine1
  /-- 0xC0, the address byte of line 2 (R87). -/
  | lcdLine2
  deriving DecidableEq, Repr

/-- The place of a packet in the group of three writes of a nibble (R56, R100): what tells `PKT_PRESENT` from `PKT_ECLR`. -/
inductive Place where
  | present
  | eset
  | eclr
  deriving DecidableEq, Repr

/-- A word on one of the four ports (R80): a command word with the text beats that follow it, a sequencer entry, a command byte, or a
packet with its place in the nibble. -/
inductive PortWord where
  | cw (word : BitVec 32) (text : List Byte)
  | uop (word : BitVec 9)
  | lcdcmd (byte : Byte)
  | pkt (place : Place) (byte : Byte)
  deriving DecidableEq, Repr

end Sys2Proof
end

