-- ==== Sys2Proof/WellFormed.lean ====
section
/-!
DEFINITION. The well-formed operations: what an encoding can hold. The one operand whose type is wider than its field is the text of
PRINT, whose length the 16-bit field `len` carries (30_encoding.md R91).
-/

namespace Sys2Proof

/-- An operation its encoding can carry: a PRINT's text has at most `TEXT_MAX` bytes (R7, R91); every other operand fills its field. -/
def Instr.wellFormed : Instr → Bool
  | .construct _ _ _ => true
  | .print text _ => decide (text.length ≤ Config.textMax)
  | .clear => true
  | .cwReserved _ => true
  | .sendbyte _ _ => true
  | .pktPresent _ _ _ => true
  | .pktEset _ _ _ => true
  | .pktEclr _ _ _ => true
  | .lcdReset4 => true
  | .lcdSet4 => true
  | .lcdEntry => true
  | .lcdDispon => true
  | .lcdFunc => true
  | .lcdClear => true
  | .lcdLine1 => true
  | .lcdLine2 => true

/-- `wellFormed` as a proposition. -/
abbrev WellFormed (i : Instr) : Prop := i.wellFormed = true

end Sys2Proof
end

