-- ==== Sys2Proof/Decode.lean ====
section
/-!
DEFINITION. The decoder, total on the words of the four ports, and after it the encoder, both written from 30_encoding.md. A word that is
no word of its port's format is rejected by name.
-/

namespace Sys2Proof

/-- Why a word is no word of its port's format. -/
inductive Reject where
  /-- A packet with the R/W bit set: "the block cannot emit it" (R94). -/
  | readWriteSet
  /-- A packet whose Enable bit does not belong to its place in the nibble (R81). -/
  | enableOutOfPlace
  /-- A byte that is none of the eight commands (R87, R94). -/
  | notACommandByte
  /-- A command word with a number of text beats other than the one it announces (R91). -/
  | textLength
  deriving DecidableEq, Repr

/-- The mode that a value of the RS bit stands for (R81, R88: 0 Command, 1 Data). -/
def Mode.ofBit (r : Bool) : Mode := if r then .data else .command

/-- The RS bit of a mode (R81). -/
def Mode.bit : Mode → Bool
  | .command => false
  | .data => true

/-- How many text beats follow a command word: `len`, bits 23 to 8, for PRINT and none otherwise (R91, R95). -/
def textBeats (w : BitVec 32) : Nat :=
  if w.extractLsb' 30 2 = 1 then (w.extractLsb' 8 16).toNat else 0

/-- The command word's operation, its text being of the announced length (R89 to R92, R94): bits 31 to 30 select it, the ignored bits
are not looked at. -/
def decodeCommand (w : BitVec 32) (text : List Byte) : Instr :=
  if w.extractLsb' 30 2 = 0 then .construct (w.extractLsb' 0 8) (w.extractLsb' 8 8) (w.getLsbD 16)
  else if w.extractLsb' 30 2 = 1 then .print text (w.extractLsb' 0 8)
  else if w.extractLsb' 30 2 = 2 then .clear
  else .cwReserved (w.extractLsb' 0 30)

/-- A `UOP`: all 512 words are SENDBYTE (R88, R94). -/
def decodeUop (w : BitVec 9) : Instr :=
  .sendbyte (Mode.ofBit (w.getLsbD 8)) (w.extractLsb' 0 8)

/-- A command byte: exactly the eight of R87. -/
def decodeLcdCmd (b : Byte) : Except Reject Instr :=
  if b = 0x33 then .ok .lcdReset4
  else if b = 0x32 then .ok .lcdSet4
  else if b = 0x06 then .ok .lcdEntry
  else if b = 0x0C then .ok .lcdDispon
  else if b = 0x28 then .ok .lcdFunc
  else if b = 0x01 then .ok .lcdClear
  else if b = 0x80 then .ok .lcdLine1
  else if b = 0xC0 then .ok .lcdLine2
  else .error .notACommandByte

/-- A packet at its place in the nibble: bit 1 clear, Enable set at the second place only (R81, R100). -/
def decodePkt (place : Place) (b : Byte) : Except Reject Instr :=
  let d := b.extractLsb' 4 4
  let bl := b.getLsbD 3
  let r := Mode.ofBit (b.getLsbD 0)
  if b.getLsbD 1 then .error .readWriteSet
  else
    match place, b.getLsbD 2 with
    | .present, false => .ok (.pktPresent d bl r)
    | .eset, true => .ok (.pktEset d bl r)
    | .eclr, false => .ok (.pktEclr d bl r)
    | _, _ => .error .enableOutOfPlace

/-- The decoder: each port's word by its own format (R80). -/
def decode : PortWord → Except Reject Instr
  | .cw w text => if text.length = textBeats w then .ok (decodeCommand w text) else .error .textLength
  | .uop w => .ok (decodeUop w)
  | .lcdcmd b => decodeLcdCmd b
  | .pkt place b => decodePkt place b

/-- A packet byte from its fields, drawn as in R81: `d` in bits 7 to 4, `b`, `e`, 0, `r`. -/
def pktByte (d : Nibble) (b e : Bool) (r : Mode) : Byte :=
  d ++ BitVec.ofBool b ++ BitVec.ofBool e ++ 0#1 ++ BitVec.ofBool r.bit

/-- The encoder: the word of an operation on its port, the ignored bits zero (R81, R87 to R92). -/
def encode : Instr → PortWord
  | .construct width height backlight => .cw (0#2 ++ 0#13 ++ BitVec.ofBool backlight ++ height ++ width) []
  | .print text line => .cw (1#2 ++ 0#6 ++ BitVec.ofNat 16 text.length ++ line) text
  | .clear => .cw (2#2 ++ 0#30) []
  | .cwReserved payload => .cw (3#2 ++ payload) []
  | .sendbyte mode value => .uop (BitVec.ofBool mode.bit ++ value)
  | .pktPresent d b r => .pkt .present (pktByte d b false r)
  | .pktEset d b r => .pkt .eset (pktByte d b true r)
  | .pktEclr d b r => .pkt .eclr (pktByte d b false r)
  | .lcdReset4 => .lcdcmd 0x33
  | .lcdSet4 => .lcdcmd 0x32
  | .lcdEntry => .lcdcmd 0x06
  | .lcdDispon => .lcdcmd 0x0C
  | .lcdFunc => .lcdcmd 0x28
  | .lcdClear => .lcdcmd 0x01
  | .lcdLine1 => .lcdcmd 0x80
  | .lcdLine2 => .lcdcmd 0xC0

/-- The port word that a row of the opcode table, `nbits` wide, stands for: 32 bits are a command word followed by beats of zeros, 9
(or 16, in whole bytes) a `UOP`, 8 a command byte if it is one of the eight and else a packet, placed by its Enable bit. A packet with
Enable clear is taken for the first write of a nibble: alone, it can not be told from the third (R100; log 15). -/
def tableWord (nbits w : Nat) : Option PortWord :=
  if nbits = 32 then some (.cw (BitVec.ofNat 32 w) (List.replicate (textBeats (BitVec.ofNat 32 w)) 0))
  else if 9 ≤ nbits ∧ nbits ≤ 16 then
    if w < 512 then some (.uop (BitVec.ofNat 9 w)) else none
  else if nbits = 8 then
    match decodeLcdCmd (BitVec.ofNat 8 w) with
    | .ok _ => some (.lcdcmd (BitVec.ofNat 8 w))
    | .error _ =>
      if (BitVec.ofNat 8 w).getLsbD 2 then some (.pkt .eset (BitVec.ofNat 8 w))
      else some (.pkt .present (BitVec.ofNat 8 w))
  else none

/-- The instruction the decoder reads from a row's word, as the opcode table numbers its bits. -/
def decodeTableWord (nbits w : Nat) : Option Instr :=
  match tableWord nbits w with
  | none => none
  | some pw => (decode pw).toOption

end Sys2Proof
end

