-- ==== Sys2Proof/Machine/Memory.lean ====
section
/-!
DEFINITION. The one address space the block reaches, `BUS` (20_memory.md R50): bytes by device address, written only by the block and
read only by the model (the display's lines). Kept as address and byte pairs in one canonical form: addresses strictly rising, and no
pair that holds what an unlisted address reads as.
-/

namespace Sys2Proof.Machine

/-- The bytes behind the device addresses. -/
abbrev Memory := List Host.Cell

/-- What an address nothing has written reads as (DESIGN CHOICE, unsafe: log 10). -/
def Memory.unlisted : Byte := 0x00

/-- The byte at an address. -/
def Memory.read : Memory → Nat → Byte
  | [], _ => Memory.unlisted
  | (k, v) :: m, a => if k = a then v else Memory.read m a

/-- Take the address out of the list. -/
def Memory.erase : Memory → Nat → Memory
  | [], _ => []
  | (k, v) :: m, a => if k = a then Memory.erase m a else (k, v) :: Memory.erase m a

/-- Put a byte that an unlisted address does not read as, the addresses rising. -/
def Memory.put : Memory → Nat → Byte → Memory
  | [], a, v => [(a, v)]
  | (k, w) :: m, a, v =>
    if a < k then (a, v) :: (k, w) :: m
    else if a = k then (a, v) :: m
    else (k, w) :: Memory.put m a v

/-- Write a byte, in canonical form. -/
def Memory.write (m : Memory) (a : Nat) (v : Byte) : Memory :=
  if v = Memory.unlisted then Memory.erase m a else Memory.put m a v

/-- The canonical form. -/
def Memory.wf : Memory → Bool
  | [] => true
  | (k, v) :: m => decide (v ≠ Memory.unlisted) && m.all (fun c => decide (k < c.1)) && Memory.wf m

end Sys2Proof.Machine
end

