-- ==== Sys2Proof/Machine/State.lean ====
section
/-!
DEFINITION. The state of the encoder and of what it is wired to (10_state.md R20, R38; INVENTORY.md lists every field with its rule and
its reset value), the reasons a step may stop, and the state after reset (R39).
-/

namespace Sys2Proof.Machine

/-- `phase` (R21). -/
inductive Phase where
  | uninitialized
  | ready
  deriving DecidableEq, Repr

/-- The configuration registers (R22 to R24). -/
structure Cfg where
  width : BitVec 8
  height : BitVec 8
  backlight : Bool
  deriving DecidableEq, Repr

/-- `seq.op`, the operation in progress (R26). -/
inductive Op where
  | idle
  | construct
  | print
  | clear
  deriving DecidableEq, Repr

/-- `seq.stage` (R26). -/
inductive Stage where
  | powerUp
  | addr
  | body
  deriving DecidableEq, Repr

/-- `seq.nib` (R26). -/
inductive Nib where
  | hi
  | lo
  deriving DecidableEq, Repr

/-- `seq`, the position of the next event to emit (R26). -/
structure Seq where
  op : Op
  stage : Stage
  idx : Nat
  nib : Nib
  step : Fin 6
  deriving DecidableEq, Repr

/-- The operand latch (R27). -/
structure Latch where
  text : List Byte
  line : BitVec 8
  deriving DecidableEq, Repr

/-- The three waits of the block (R151 to R154). -/
inductive Wait where
  | eDelay
  | ePulse
  | powerUp
  deriving DecidableEq, Repr

/-- One event's worth of work: a wait, the invalid-line report, or one bus write with its place in the nibble. -/
inductive Prim where
  | wait (w : Wait)
  | report
  | write (place : Place) (b : Byte)
  deriving DecidableEq, Repr

/-- An entry of the sequencer's work: one event, a whole byte with its mode (`UOP`, R88), or a command byte (`LCDCMD`, R87). -/
inductive Item where
  | prim (p : Prim)
  | uop (w : BitVec 9)
  | lcdcmd (b : Byte)
  deriving DecidableEq, Repr

/-- A PRINT word whose text beats are still arriving, with the beats so far, first beat first (R91, R260). -/
structure Rx where
  word : BitVec 32
  got : List Byte
  deriving DecidableEq, Repr

/-- The events anything outside the block can see (R10). -/
inductive Event where
  /-- `W(b) -> r`. -/
  | write (b : Byte) (r : Answer)
  /-- `T(n)`, at least `n` time units. -/
  | wait (n : Nat)
  /-- `Tms(n)`, at least `n` milliseconds. -/
  | waitMs (n : Nat)
  /-- `L(InvalidLine)`. -/
  | invalidLine
  deriving DecidableEq, Repr

/-- What is known of the display: the fact "a write was answered Err" or "an operation was cut short" that a model keeps and clears
only at a successful CONSTRUCT after a reset (U2, R262); and the display's own fault, a byte that reached it while it was busy (U7). -/
inductive Sync where
  /-- An error, or a fault of the display, since the last reset: nothing is known of the display. -/
  | lost
  /-- Nothing is known, and a reset has been made: a successful CONSTRUCT brings the display in step. -/
  | awaiting
  /-- The display is in step with the block. -/
  | inStep
  deriving DecidableEq, Repr

/-- Why a step may fault: the spec gives the block no fault that stops it (R210, R223), so no constructor is needed and none is here.
A bus error is a next state (R212). -/
inductive Fault where
  deriving DecidableEq, Repr

/-- Why a step is refused. -/
inductive Refusal where
  /-- Raised by `exec` for an instruction that has no meaning yet (safe). -/
  | notModelled (mnemonic : String)
  /-- Raised by `step` when the word next in the sequencer's queue is no word of its port's format, which the block can not emit
  (R94); no operation puts such a word there (safe; log 26). -/
  | undecodable (r : Reject)
  deriving DecidableEq, Repr

/-- Everything the spec gives the machine, and the environment it is wired to. -/
structure State where
  /-- The build's parameters (R7). -/
  build : Build
  phase : Phase
  cfg : Cfg
  busy : Bool
  status : BitVec 3
  seq : Seq
  tmr : Nat
  latch : Latch
  /-- What the sequencer still has to do, first entry next. -/
  work : List Item
  /-- The write request outstanding at the adapter (R196). -/
  wr : Option Byte
  rx : Option Rx
  /-- Input: the transfers the host will offer (R260). -/
  cmd : List (BitVec 32)
  /-- Input: the transport's answers to come; none left means that it has not answered (R194, R199). -/
  answers : List Answer
  /-- Input: when reset rises: after so many more events of the block and transfers of the command port, and so on for the resets after it
  (R240, R242, R261; log 4). -/
  rst : List Nat
  /-- Input: whether the display has finished its clear command by the time the next byte reaches it, once for each time it is found busy
  (R38, R247, R262 d); none left means that it has not (log 22). -/
  settled : List Bool
  /-- The BUS address space: the expander's output latch (R50, R38). -/
  bus : Memory
  /-- The display (R38). -/
  device : Device
  sync : Sync
  /-- The model's own: the index of the next free value. -/
  draws : Nat
  /-- Output: the events so far, oldest first (R10). -/
  trace : List Event
  /-- Output: the status words reported so far, oldest first (R262). -/
  results : List (BitVec 3)
  deriving DecidableEq, Repr

/-- `seq` when no operation is in progress; the fields besides `op` are unspecified (R39; DESIGN CHOICE: log 9). -/
def Seq.idle : Seq :=
  { op := .idle, stage := .body, idx := 0, nib := .hi, step := 0 }

/-- The configuration registers after reset: unspecified (R39; DESIGN CHOICE, unsafe: log 7). -/
def Cfg.reset : Cfg :=
  { width := 0, height := 0, backlight := false }

/-- The operand latch after reset: unspecified (R39; DESIGN CHOICE, unsafe: log 8). -/
def Latch.reset : Latch :=
  { text := [], line := 0 }

/-- The display before anything is known of it (DESIGN CHOICE, unsafe: log 11). -/
def Device.atReset : Device :=
  { half := none, cursor := .home 0, busy := false }

/-- The machine right after reset (R39), with nothing offered, answered or recorded yet. -/
def State.reset : State :=
  { build := Config.defaultBuild
    phase := .uninitialized
    cfg := Cfg.reset
    busy := false
    status := 0b000
    seq := Seq.idle
    tmr := 0
    latch := Latch.reset
    work := []
    wr := none
    rx := none
    cmd := []
    answers := []
    rst := []
    settled := []
    bus := []
    device := Device.atReset
    sync := .awaiting
    draws := 0
    trace := []
    results := [] }

end Sys2Proof.Machine
end

