-- ==== Sys2Proof/Machine/Display.lean ====
section
/-!
DEFINITION. What the display makes of the bytes that reach the expander (10_state.md R38, 20_memory.md R61), so far as the spec says: it
takes the nibble on the lines at each falling edge of Enable, pairs nibbles, and moves its cursor. Environment state: no operation of the
block reads any of it. Beside it `lcd_view`, the reading of a whole write trace (R70).
-/

namespace Sys2Proof.Machine

/-- A falling edge of the Enable line, bit 2 (R61). -/
def fallingEdge (old new : Byte) : Bool := old.getLsbD 2 && !new.getLsbD 2

/-- The RS line and the nibble that a byte puts on the lines (R54). -/
def linesNibble (b : Byte) : Mode × Nibble := (Mode.ofBit (b.getLsbD 0), b.extractLsb' 4 4)

/-- The cursor one data byte further (R38: auto-increment). -/
def cursorNext : Cursor → Cursor
  | .home n => .home (n + 1)
  | .line base n => .line base (n + 1)

/-- The cursor after a whole byte: data bytes move it on, the clear command takes it home, an address byte to its line, the other
command bytes of R87 leave it; a command byte that the block never sends leaves it anywhere (R38; log 21). -/
def cursorAfter (draw : Nat) (m : Mode) (b : Byte) (c : Cursor) : Cursor :=
  match m with
  | .data => cursorNext c
  | .command =>
    match decodeLcdCmd b with
    | .ok (.construct _ _ _) => c
    | .ok (.print _ _) => c
    | .ok .clear => c
    | .ok (.cwReserved _) => c
    | .ok (.sendbyte _ _) => c
    | .ok (.pktPresent _ _ _) => c
    | .ok (.pktEset _ _ _) => c
    | .ok (.pktEclr _ _ _) => c
    | .ok .lcdReset4 => c
    | .ok .lcdSet4 => c
    | .ok .lcdEntry => c
    | .ok .lcdDispon => c
    | .ok .lcdFunc => c
    | .ok .lcdClear => .home 0
    | .ok .lcdLine1 => .line b 0
    | .ok .lcdLine2 => .line b 0
    | .error _ => Config.freeCursor draw

/-- The command that keeps the display busy: clear (R247). -/
def startsClear (m : Mode) (b : Byte) : Bool :=
  match m with
  | .data => false
  | .command => decide (b = 0x01)

/-- The display takes a nibble: the high half is held, the low half completes the byte (R38, R59). -/
def deviceTake (draw : Nat) (n : Mode × Nibble) (d : Device) : Device :=
  match d.half with
  | none => { d with half := some n }
  | some (m, hi) =>
    { half := none, cursor := cursorAfter draw m (hi ++ n.2) d.cursor, busy := startsClear m (hi ++ n.2) }

/-- The display while the block waits: a power-up wait of 2 ms or more outlasts the 1.5 ms of a clear (R154, R247). A wait in time units
proves nothing of it, their length being open (R158; log 22). -/
def deviceRested (build : Build) (w : Wait) (d : Device) : Device :=
  match w with
  | .eDelay => d
  | .ePulse => d
  | .powerUp => if 2 ≤ build.powerUpMs then { d with busy := false } else d

/-- `lcd_nibbles`, Enable having been `e` before the first byte (R70). -/
def lcdNibblesFrom (e : Bool) : List Byte → List (Mode × Nibble)
  | [] => []
  | b :: bs =>
    if e && !b.getLsbD 2 then linesNibble b :: lcdNibblesFrom (b.getLsbD 2) bs
    else lcdNibblesFrom (b.getLsbD 2) bs

/-- The nibbles paired from the start (R70). -/
def pairNibbles : List (Mode × Nibble) → List (Mode × Byte)
  | hi :: lo :: rest => (hi.1, hi.2 ++ lo.2) :: pairNibbles rest
  | [_] => []
  | [] => []

/-- `lcd_view` of a write trace (R70). -/
def lcdView (writes : List Byte) : List (Mode × Byte) := pairNibbles (lcdNibblesFrom false writes)

/-- The write trace: the bytes of the `W` events (R10). -/
def writesOf : List Event → List Byte
  | [] => []
  | .write b _ :: es => b :: writesOf es
  | .wait _ :: es => writesOf es
  | .waitMs _ :: es => writesOf es
  | .invalidLine :: es => writesOf es

end Sys2Proof.Machine
end

