-- ==== Sys2Proof/Machine/Flags.lean ====
section
/-!
DEFINITION. The status word, the block's only flags (10_state.md R30, 30_encoding.md R93), and how each ending of an operation sets it.
-/

namespace Sys2Proof.Machine

/-- `SW` from its three bits: 2 `refused`, 1 `invalid_line`, 0 `bus_error` (R30). -/
def statusWord (refused invalidLine busError : Bool) : BitVec 3 :=
  BitVec.ofBool refused ++ BitVec.ofBool invalidLine ++ BitVec.ofBool busError

/-- Whether a line number is invalid: it has no entry in the table `LINE` (R172). -/
def lineInvalid (line : BitVec 8) : Bool := (Config.lineByte line).isNone

/-- Whether the operation in progress is a PRINT whose line is invalid (R172, R218). -/
def softError (op : Op) (line : BitVec 8) : Bool :=
  match op with
  | .idle => false
  | .construct => false
  | .print => lineInvalid line
  | .clear => false

/-- The status of an operation that ran to its end (R113, R170, R176). -/
def statusDone (op : Op) (line : BitVec 8) : BitVec 3 := statusWord false (softError op line) false

/-- The status of an operation that a bus error ended (R212, R218). -/
def statusBusError (op : Op) (line : BitVec 8) : BitVec 3 := statusWord false (softError op line) true

/-- The status of an operation that was refused (R225). -/
def statusRefused : BitVec 3 := statusWord true false false

/-- The five status words that are ever produced (R93). -/
def statusLegal (sw : BitVec 3) : Bool :=
  decide (sw = 0b000) || decide (sw = 0b001) || decide (sw = 0b010) || decide (sw = 0b011) || decide (sw = 0b100)

end Sys2Proof.Machine
end

