-- ==== Sys2Proof/Machine/Operands.lean ====
section
/-!
DEFINITION. Operand assembly: the packets of a byte and the three bytes of a nibble (30_encoding.md R83 to R85), the length of a wait
(42_enable_pulse_timer.md R152 to R154), and the beats of a text (R91, R260).
-/

namespace Sys2Proof.Machine

/-- `mode_bit` (R82, R130). -/
def modeBit : Mode → Byte
  | .command => Config.modeCmd
  | .data => Config.modeData

/-- `bl_mask` (R24, R131). -/
def blMask (backlight : Bool) : Byte :=
  if backlight then Config.blOn else Config.blOff

/-- `highPacket` (R83). -/
def highPacket (bl : Bool) (m : Mode) (value : Byte) : Byte :=
  modeBit m ||| (value &&& Config.hiMask) ||| blMask bl

/-- `lowPacket` (R84). -/
def lowPacket (bl : Bool) (m : Mode) (value : Byte) : Byte :=
  modeBit m ||| ((value <<< 4) &&& Config.hiMask) ||| blMask bl

/-- The second write of a nibble, `p | ENABLE_BIT` (R85). -/
def enableSet (p : Byte) : Byte := p ||| Config.enableBit

/-- The third write of a nibble, `p & ~ENABLE_BIT` (R85). -/
def enableClear (p : Byte) : Byte := p &&& ~~~Config.enableBit

/-- The event a wait emits, with its lower bound (R152 to R155; log 28). -/
def waitEvent (build : Build) : Wait → Event
  | .eDelay => .wait build.eDelayUnits
  | .ePulse => .wait build.ePulseUnits
  | .powerUp => .waitMs build.powerUpMs

/-- The clock cycles the wait counter is loaded with (R28, R157). -/
def waitCycles (build : Build) : Wait → Nat
  | .eDelay => Config.cyclesOfUnits build.eDelayUnits
  | .ePulse => Config.cyclesOfUnits build.ePulseUnits
  | .powerUp => Config.cyclesOfMs build.powerUpMs

/-- The text byte of a beat: bits 7 to 0 (R260). -/
def beatByte (beat : BitVec 32) : Byte := beat.extractLsb' 0 8

/-- The beat that carries a text byte. -/
def byteBeat (b : Byte) : BitVec 32 := b.setWidth 32

end Sys2Proof.Machine
end

