-- ==== Sys2Proof/Machine/Ops.lean ====
section
/-!
DEFINITION. The shared operations: events, the hardware reset, the bus error, the three kinds of event (wait, report, bus write), the
sequences NIBBLE, PULSE and SENDBYTE as lists of events, and the beginning and the end of a public operation.
-/

namespace Sys2Proof.Machine

/-! ## The position of the sequencer -/

/-- The position after an event: `step`, then `nib`, then `idx`, then the next stage (R26). In POWERUP and ADDR `idx` stays 0 (DESIGN CHOICE:
log 31). -/
def seqNext (q : Seq) : Seq :=
  match q.stage with
  | .powerUp => { q with stage := .body, idx := 0, nib := .hi, step := 0 }
  | .addr =>
    if q.step < 5 then { q with step := q.step + 1 }
    else
      match q.nib with
      | .hi => { q with nib := .lo, step := 0 }
      | .lo => { q with stage := .body, idx := 0, nib := .hi, step := 0 }
  | .body =>
    if q.step < 5 then { q with step := q.step + 1 }
    else
      match q.nib with
      | .hi => { q with nib := .lo, step := 0 }
      | .lo => { q with idx := q.idx + 1, nib := .hi, step := 0 }

/-- Where an operation starts: CONSTRUCT at the power-up wait, PRINT at the address byte or, its line being invalid, at the body (the
skip of R179), CLEAR at the body (R26). The spec gives `idx` in the body only, and `nib` and `step` inside a nibble only: in POWERUP they are 0, HI, 0,
in ADDR `idx` is 0 (DESIGN CHOICE: log 31). -/
def seqStart (op : Op) (line : BitVec 8) : Seq :=
  { op := op
    stage := match op with
      | .idle => .body
      | .construct => .powerUp
      | .print => if lineInvalid line then .body else .addr
      | .clear => .body
    idx := 0
    nib := .hi
    step := 0 }

/-- Move the sequencer on by one event, if an operation is in progress (R26). -/
def State.advance (s : State) : State :=
  { s with seq := if s.seq.op = .idle then s.seq else seqNext s.seq }

/-! ## Events and the reset input -/

/-- Reset rises before the next event (R240). -/
def State.resetDue (s : State) : Bool := decide (s.rst.head? = some 0)

/-- The resets still to come after `n` events or transfers with none in them (log 4). -/
def rstAfter (n : Nat) : List Nat → List Nat
  | [] => []
  | k :: ks => (k - n) :: ks

/-- Record an event (R10). -/
def State.emit (e : Event) (s : State) : State :=
  { s with trace := s.trace ++ [e], rst := rstAfter 1 s.rst }

/-- The hardware reset (R240): every register of the block at its reset value (R39), no event, no status reported. `cut` says whether an
operation was in progress: then a write outstanding may or may not reach the expander, and the display is left anywhere (R242, U2; logs 5,
6, 23). The write outstanding gets no answer: the answers to come are those of the writes after the reset (DESIGN CHOICE: log 32). The
environment is not changed otherwise. -/
def State.hardwareReset (cut : Bool) (s : State) : State :=
  { s with
    phase := .uninitialized
    cfg := Cfg.reset
    busy := false
    status := 0b000
    seq := Seq.idle
    tmr := 0
    latch := Latch.reset
    work := []
    wr := none
    rx := none
    rst := s.rst.tail
    bus := match s.wr with
      | none => s.bus
      | some b => if Config.failedWriteLands s.draws then s.bus.write s.build.i2cAddr.toNat b else s.bus
    device := if cut then Config.freeDevice s.draws else s.device
    sync := if cut then .awaiting else if s.sync = .lost then .awaiting else s.sync
    draws := if cut then s.draws + 1 else s.draws }

/-! ## The ways an operation ends -/

/-- Report a status and become idle (R29, R30): the completion port's `done`. -/
def State.done (sw : BitVec 3) (s : State) : State :=
  { s with busy := false, seq := Seq.idle, status := sw, results := s.results ++ [sw] }

/-- The bus error, the block's one exception (R212, R219): the operation in progress ends at once with nothing saved, its remaining work
is dropped, `phase` and the configuration stay. The display is left anywhere (U2; log 6). There is no handler and no return (R220). For an internal operation run alone: log 18. -/
def State.busError (s : State) : State :=
  { s.done (statusBusError s.seq.op s.latch.line) with
    work := []
    wr := none
    device := Config.freeDevice s.draws
    sync := .lost
    draws := s.draws + 1 }

/-- What a successful CONSTRUCT does to what is known of the display: after a reset it brings it in step, expecting a high nibble, at the
clear command that ends CONSTRUCT (R242, R247, R262, U2; log 24). -/
def State.resync (s : State) : State :=
  if s.sync = .awaiting then
    { s with sync := .inStep, device := { half := none, cursor := .home 0, busy := true } }
  else s

/-- The operation in progress has run to its end (R113, R170, R176). -/
def State.complete (s : State) : State :=
  match s.seq.op with
  | .idle => { s with busy := false, seq := Seq.idle }
  | .construct => { s.resync.done (statusDone .construct s.latch.line) with phase := .ready }
  | .print => s.done (statusDone .print s.latch.line)
  | .clear => s.done (statusDone .clear s.latch.line)

/-- The operation offered is refused: no event, no state but the status (R225). -/
def State.refuse (s : State) : State :=
  { s with status := statusRefused, results := s.results ++ [statusRefused] }

/-! ## One event -/

/-- How far a piece of work came. -/
inductive Run where
  /-- It is done. -/
  | goOn (s : State)
  /-- The transport has not answered: the request stays outstanding (R199). -/
  | waiting (s : State)
  /-- A bus error or a reset ended the operation. -/
  | ended (s : State)
  deriving DecidableEq, Repr

/-- The byte at the expander: the levels of the display's lines (R54). -/
def State.lines (s : State) : Byte := s.bus.read s.build.i2cAddr.toNat

/-- A nibble is about to reach a display that is in step: if it is busy, it has finished by now or, being given no more time, the nibble is a
fault of the display, of which nothing is known from then on (R247, U7; log 22). -/
def State.deviceReady (s : State) : State :=
  if decide (s.sync = .inStep) && s.device.busy then
    if s.settled.head? = some true then
      { s with device := { s.device with busy := false }, settled := s.settled.tail }
    else
      { s with device := Config.freeDevice s.draws, settled := s.settled.tail, sync := .lost }
  else s

/-- The display's lines change to `b` (R61). -/
def State.drive (b : Byte) (s : State) : State :=
  if fallingEdge s.lines b then
    { s.deviceReady with device := deviceTake s.draws (linesNibble b) s.deviceReady.device }
  else s

/-- The byte reaches the expander, and the display's lines change (R61, R190). -/
def State.land (b : Byte) (s : State) : State :=
  { s.drive b with
    bus := s.bus.write s.build.i2cAddr.toNat b
    draws := s.draws + 1 }

/-- A write answered Ok (R190): the request is over, the byte has landed. -/
def State.written (b : Byte) (s : State) : State :=
  (({ s.land b with wr := none, answers := s.answers.tail } : State).emit (.write b .ok)).advance

/-- A write answered Err: whether the byte reached the expander is open (U3), and the operation ends (R212). -/
def State.failed (b : Byte) (s : State) : State :=
  (({ s with
      answers := s.answers.tail
      bus := if Config.failedWriteLands s.draws then s.bus.write s.build.i2cAddr.toNat b else s.bus } : State).emit
    (.write b .err)).busError

/-- BUSWRITE (R190): one request of one byte to the one device, answered Ok, answered Err, or not answered yet. -/
def busWrite (b : Byte) (s : State) : Run :=
  match s.answers with
  | [] => .waiting { s with wr := some b }
  | .ok :: _ => .goOn (s.written b)
  | .err :: _ => .ended (s.failed b)

/-- The wait counter is loaded with the length of the wait (R28). -/
def State.loadTimer (w : Wait) (s : State) : State := { s with tmr := waitCycles s.build w }

/-- The wait counter has run down: a wait always ends (R28, R155). -/
def State.timerElapsed (s : State) : State := { s with tmr := 0 }

/-- WAIT (R151): the counter is loaded and runs down, and the event carries the lower bound (R155). -/
def State.waited (w : Wait) (s : State) : State :=
  (({ s with device := deviceRested s.build w s.device }.loadTimer w).timerElapsed.emit (waitEvent s.build w)).advance

/-- Report(InvalidLine) (R213). It has no position of its own: `seq` stands at the first character meanwhile (DESIGN CHOICE: log 31). -/
def State.reported (s : State) : State := s.emit .invalidLine

/-- The write request of an event, if it is one: on the port when reset rises, it may have reached the expander (R242; DESIGN
CHOICE: log 23). -/
def State.asked (p : Prim) (s : State) : State :=
  match p with
  | .wait _ => s
  | .report => s
  | .write _ b => { s with wr := some b }

/-- One event (R10), unless reset rises before it. -/
def runPrim (p : Prim) (s : State) : Run :=
  if s.resetDue then .ended ((s.asked p).hardwareReset true)
  else
    match p with
    | .wait w => .goOn (s.waited w)
    | .report => .goOn s.reported
    | .write _ b => busWrite b s

/-- Events one after the other, each complete before the next begins (R63). What an unanswered write holds up stays in the queue, the write
first. -/
def runPrims : List Prim → State → Run
  | [], s => .goOn s
  | p :: ps, s =>
    match runPrim p s with
    | .goOn s' => runPrims ps s'
    | .waiting s' => .waiting { s' with work := (p :: ps).map Item.prim ++ s'.work }
    | .ended s' => .ended s'

/-! ## The sequences -/

/-- PULSE(p) (R150). -/
def pulse (p : Byte) : List Prim :=
  [.wait .eDelay, .write .eset (enableSet p), .wait .ePulse, .write .eclr (enableClear p), .wait .eDelay]

/-- NIBBLE(p) (R135): the presentation write, then the pulse; six writes a byte, not four (90_conflicts.md C1; DEDUCED: log 25). -/
def nibble (p : Byte) : List Prim := .write .present p :: pulse p

/-- SENDBYTE(value, mode) (R130): the high packet, then the low. -/
def sendByte (bl : Bool) (m : Mode) (value : Byte) : List Prim :=
  nibble (highPacket bl m value) ++ nibble (lowPacket bl m value)

/-- The events of an entry of the sequencer's work. -/
def expand (bl : Bool) : Item → List Prim
  | .prim p => [p]
  | .uop w => sendByte bl (Mode.ofBit (w.getLsbD 8)) (w.extractLsb' 0 8)
  | .lcdcmd b => sendByte bl .command b

/-- The `UOP` of a character (R88, R173). -/
def charUop (c : Byte) : BitVec 9 := 1#1 ++ c

/-- The address step of PRINT, or the report in its place (R171, R172). -/
def addressStep (line : BitVec 8) : List Item :=
  match Config.lineByte line with
  | some b => [.lcdcmd b]
  | none => [.prim .report]

/-- The work of a public operation (R110, R170, R176). -/
def program (op : Op) (latch : Latch) : List Item :=
  match op with
  | .idle => []
  | .construct => .prim (.wait .powerUp) :: Config.init.map Item.lcdcmd
  | .print => addressStep latch.line ++ latch.text.map (fun c => Item.uop (charUop c))
  | .clear => [.lcdcmd 0x01]

/-- The events of the operation in progress, on the operands latched and the backlight configured (R27, R131). -/
def State.events (s : State) : List Prim := (program s.seq.op s.latch).flatMap (expand s.cfg.backlight)

/-! ## Outcomes -/

/-- Why and how a step stops, or the next state. -/
abbrev Out := Host.Outcome State Fault Refusal

/-- The outcome of an internal operation: wherever it came to (log 29). -/
def Run.settle : Run → Out
  | .goOn s => .next s
  | .waiting s => .next s
  | .ended s => .next s

/-- The outcome of a public operation: done with its last event, it completes (R113). -/
def Run.finish : Run → Out
  | .goOn s => .next s.complete
  | .waiting s => .next s
  | .ended s => .next s

/-- Run events of an internal operation. -/
def runInner (ps : List Prim) (s : State) : Out := (runPrims ps s).settle

/-- Send one byte (R130). -/
def runSendByte (m : Mode) (value : Byte) (s : State) : Out := runInner (sendByte s.cfg.backlight m value) s

/-- Begin a public operation: busy, with the sequencer at its start (R26, R29). -/
def State.accept (op : Op) (s : State) : State :=
  { s with busy := true, seq := seqStart op s.latch.line }

/-- Run the public operation just accepted. -/
def State.operate (s : State) : Out := (runPrims s.events s).finish

/-- A public operation at the command port: not taken while busy (R29; log 16), refused in the wrong phase (R224, R225), and else
accepted with its operands written, and run. -/
def offered (op : Op) (phase : Phase) (operands : State → State) (s : State) : Out :=
  if s.busy then .next s
  else if s.phase = phase then ((operands s).accept op).operate
  else .next s.refuse

end Sys2Proof.Machine
end

