-- ==== Sys2Proof/Machine/HostCommands.lean ====
section
/-!
DEFINITION. The command words of the host (format `CW`): CONSTRUCT, PRINT, CLEAR and the reserved class.
-/

namespace Sys2Proof.Machine

/-- CONSTRUCT (R110, R115): accepted in `Uninitialized`, the configuration written at acceptance. -/
def execConstruct (width height : BitVec 8) (backlight : Bool) (s : State) : Out :=
  offered .construct .uninitialized
    (fun s => { s with cfg := { width := width, height := height, backlight := backlight } }) s

/-- PRINT (R170): accepted in `Ready`, its operands copied at acceptance (R27). Any finite text is sent (D11; log 27). -/
def execPrint (text : List Byte) (line : BitVec 8) (s : State) : Out :=
  offered .print .ready (fun s => { s with latch := { text := text, line := line } }) s

/-- CLEAR (R176): accepted in `Ready`. -/
def execClear (s : State) : Out := offered .clear .ready (fun s => s) s

/-- A reserved command word (R94, R225): refused in either phase, whatever its other bits. -/
def execCwReserved (_payload : BitVec 30) (s : State) : Out :=
  if s.busy then .next s else .next s.refuse

end Sys2Proof.Machine
end

