-- ==== Sys2Proof/Machine/Packets.lean ====
section
/-!
DEFINITION. The three writes of a nibble (format `PKT`), each one BUSWRITE of its byte (30_encoding.md R100, 44_write_adapter.md R190). The
waits around them belong to PULSE (log 30).
-/

namespace Sys2Proof.Machine

/-- The presentation write (R135). -/
def execPktPresent (d : Nibble) (b : Bool) (r : Mode) (s : State) : Out :=
  runInner [.write .present (pktByte d b false r)] s

/-- The write that raises Enable (R150). -/
def execPktEset (d : Nibble) (b : Bool) (r : Mode) (s : State) : Out :=
  runInner [.write .eset (pktByte d b true r)] s

/-- The write that lowers Enable, the one the display latches on (R150). -/
def execPktEclr (d : Nibble) (b : Bool) (r : Mode) (s : State) : Out :=
  runInner [.write .eclr (pktByte d b false r)] s

end Sys2Proof.Machine
end

