-- ==== Sys2Proof/Machine/Sequencer.lean ====
section
/-!
DEFINITION. The sequencer's own operations: SENDBYTE (format `UOP`) and the eight command bytes (format `LCDCMD`), each a SENDBYTE in
Command mode (30_encoding.md R87).
-/

namespace Sys2Proof.Machine

/-- SENDBYTE (R130). -/
def execSendbyte (m : Mode) (value : Byte) (s : State) : Out := runSendByte m value s

/-- 0x33 in Command mode (R87, R112). -/
def execLcdReset4 (s : State) : Out := runSendByte .command 0x33 s

/-- 0x32 in Command mode (R87, R112). -/
def execLcdSet4 (s : State) : Out := runSendByte .command 0x32 s

/-- 0x06 in Command mode (R87, R112). -/
def execLcdEntry (s : State) : Out := runSendByte .command 0x06 s

/-- 0x0C in Command mode (R87, R112). -/
def execLcdDispon (s : State) : Out := runSendByte .command 0x0C s

/-- 0x28 in Command mode (R87, R112). -/
def execLcdFunc (s : State) : Out := runSendByte .command 0x28 s

/-- 0x01 in Command mode (R87, R176), with no wait after it beyond SENDBYTE's own (R177). -/
def execLcdClear (s : State) : Out := runSendByte .command 0x01 s

/-- 0x80 in Command mode (R87, R171). -/
def execLcdLine1 (s : State) : Out := runSendByte .command 0x80 s

/-- 0xC0 in Command mode (R87, R171). -/
def execLcdLine2 (s : State) : Out := runSendByte .command 0xC0 s

end Sys2Proof.Machine
end

