-- ==== Sys2Proof/Machine/Dispatch.lean ====
section
/-!
DEFINITION. exec: one arm for each row of spec/opcode_table.json, each one call of its meaning.
-/

namespace Sys2Proof.Machine

def exec (i : Instr) (s : State) : Host.Outcome State Fault Refusal :=
  match i with
  -- CW
  | .construct width height backlight => Sys2Proof.Machine.execConstruct width height backlight s
  | .print text line => Sys2Proof.Machine.execPrint text line s
  | .clear => Sys2Proof.Machine.execClear s
  | .cwReserved payload => Sys2Proof.Machine.execCwReserved payload s
  -- UOP
  | .sendbyte mode value => Sys2Proof.Machine.execSendbyte mode value s
  -- PKT
  | .pktPresent d b r => Sys2Proof.Machine.execPktPresent d b r s
  | .pktEset d b r => Sys2Proof.Machine.execPktEset d b r s
  | .pktEclr d b r => Sys2Proof.Machine.execPktEclr d b r s
  -- LCDCMD
  | .lcdReset4 => Sys2Proof.Machine.execLcdReset4 s
  | .lcdSet4 => Sys2Proof.Machine.execLcdSet4 s
  | .lcdEntry => Sys2Proof.Machine.execLcdEntry s
  | .lcdDispon => Sys2Proof.Machine.execLcdDispon s
  | .lcdFunc => Sys2Proof.Machine.execLcdFunc s
  | .lcdClear => Sys2Proof.Machine.execLcdClear s
  | .lcdLine1 => Sys2Proof.Machine.execLcdLine1 s
  | .lcdLine2 => Sys2Proof.Machine.execLcdLine2 s

end Sys2Proof.Machine
end

