-- ==== Sys2Proof/Machine/Fetch.lean ====
section
/-!
DEFINITION. How a word comes to the machine: the command port takes a word and the text beats it announces (30_encoding.md R91, R260), and
a word of the opcode table is placed on its own port (R80).
-/

namespace Sys2Proof.Machine

/-- The transfers that the command port sees before reset next rises (R261; log 4). -/
def State.offered (s : State) : List (BitVec 32) :=
  match s.rst with
  | [] => s.cmd
  | k :: _ => s.cmd.take k

/-- What the command port has after taking the transfers offered, and how many it took. -/
inductive Offer where
  /-- A whole request: the word and its text. -/
  | request (word : BitVec 32) (text : List Byte) (taken : Nat)
  /-- Beats are still missing, or nothing was offered. -/
  | partly (rx : Option Rx) (taken : Nat)
  deriving DecidableEq, Repr

/-- Take the beats that a word still lacks, as far as they are offered, `before` transfers having been taken already. -/
def takeBeats (word : BitVec 32) (got : List Byte) (before : Nat) (beats : List (BitVec 32)) : Offer :=
  let need := textBeats word - got.length
  if need ≤ beats.length then .request word (got ++ (beats.take need).map beatByte) (before + need)
  else .partly (some { word := word, got := got ++ beats.map beatByte }) (before + beats.length)

/-- The command port (R260): after a PRINT word the next `len` transfers are text beats; a request is whole at the last of them
(and a refusal is decided there: DEDUCED, log 17). -/
def receive (rx : Option Rx) (offer : List (BitVec 32)) : Offer :=
  match rx, offer with
  | some r, _ => takeBeats r.word r.got 0 offer
  | none, [] => .partly none 0
  | none, w :: beats => takeBeats w [] 1 beats

/-- The transfers taken off the port, each a moment nearer to the next reset (log 4). -/
def State.transfer (rx : Option Rx) (taken : Nat) (s : State) : State :=
  { s with rx := rx, cmd := s.cmd.drop taken, rst := rstAfter taken s.rst }

/-- The state with a word on its port and nothing before it: a command word with its beats offered at the idle command port, or an entry
at the head of the sequencer's queue (log 2). -/
def placeWord (s : State) : PortWord → State
  | .cw w text => { s with cmd := w :: text.map byteBeat, rx := none, busy := false, work := [], rst := [] }
  | .uop w => { s with work := [.uop w], rst := [] }
  | .lcdcmd b => { s with work := [.lcdcmd b], rst := [] }
  | .pkt place b => { s with work := [.prim (.write place b)], rst := [] }

/-- The state with the word of an opcode-table row placed; unchanged where the table has no such row. -/
def placeTableWord (s : State) (nbits w : Nat) : State :=
  match tableWord nbits w with
  | none => s
  | some pw => placeWord s pw

end Sys2Proof.Machine
end

