-- ==== Sys2Proof/Machine/Cycle.lean ====
section
/-!
DEFINITION. One step of the machine: a reset that is due, else the next entry of the sequencer's queue, with the last of which the operation in
progress completes, else the next operation at the command port.
-/

namespace Sys2Proof.Machine

/-- An operation, or a write, is in progress (R242). -/
def State.inProgress (s : State) : Bool := s.busy || !s.work.isEmpty || s.wr.isSome

/-- Decode a word and run its instruction; a word of no format is refused by name. -/
def fetch (pw : PortWord) (s : State) : Out :=
  match decode pw with
  | .ok i => exec i s
  | .error r => .refused (.undecodable r)

/-- The entry at the head of the queue, already taken out of it. -/
def runItem (item : Item) (s : State) : Out :=
  match item with
  | .prim (.wait w) => runInner [.wait w] s
  | .prim .report => runInner [.report] s
  | .prim (.write place b) => fetch (.pkt place b) s
  | .uop w => fetch (.uop w) s
  | .lcdcmd b => fetch (.lcdcmd b) s

/-- The idle command port (R241, R260): the next request if it is whole, and else nothing but the taking of what is offered. -/
def portCycle (s : State) : Out :=
  match receive s.rx s.offered with
  | .request word text taken => fetch (.cw word text) (s.transfer none taken)
  | .partly rx taken => .next (s.transfer rx taken)

/-- An operation completes with the last of its events, "all at once" (R113): when that event leaves the queue empty. A reset that is due right after
the event comes after the completion, whose status is reported, here and where the whole operation is run in one step: the spec names no order of
the two (DESIGN CHOICE: log 4). -/
def State.completed (s : State) : State :=
  if s.busy && s.work.isEmpty then s.complete else s

/-- The outcome of an entry of the queue. -/
def endOfWork (o : Out) : Out :=
  match o with
  | .next s => .next s.completed
  | .fault f => .fault f
  | .refused r => .refused r

/-- The write that comes next in the queue is requested as reset rises: it may land, and may not (R242). That a write
not yet on the port counts as requested is the model's choice, the same as in `runPrim` (DESIGN CHOICE: log 23). -/
def State.askedNext (s : State) : State :=
  match s.work.head?.bind (fun item => (expand s.cfg.backlight item).head?) with
  | none => s
  | some p => s.asked p

/-- One step: a reset that is due before the next event or transfer; else the next entry of the queue; else the command port. (A busy block
with nothing left to do, in which no run leaves it, completes.) -/
def cycle (s : State) : Out :=
  if s.resetDue then .next (s.askedNext.hardwareReset s.inProgress)
  else
    match s.work with
    | item :: rest => endOfWork (runItem item { s with work := rest })
    | [] => if s.busy then .next s.complete else portCycle s

end Sys2Proof.Machine
end

