-- ==== Sys2Proof/Machine/Ports.lean ====
section
/-!
DEFINITION. The port signals as functions of the state: the command and completion ports (70_reset_and_hazards.md R260) and the adapter's
(44_write_adapter.md R196). The pulses `done` and `invalid_line` are the growth of `results` and of `trace`; the answer's pulses `i2c_ack`,
`i2c_fail`, `wr_done` and `wr_err` are up while a request is outstanding and its answer has come, which the next step takes. A write answered at
once makes them within its step: there they are its event W (DESIGN CHOICE: log 19). A request that a due reset withdraws gets no answer, and the
pulses are down (DESIGN CHOICE: log 32).
-/

namespace Sys2Proof.Machine

/-- `cmd_ready`: low while busy (R260), and up where the next step takes a transfer that is offered: so not when reset is due, nor while an internal
operation run alone is in the queue, of which the spec does not speak (DESIGN CHOICE: log 34). -/
def State.cmdReady (s : State) : Bool := !s.busy && !s.resetDue && s.work.isEmpty

/-- `phase` on the port: 0 `Uninitialized`, 1 `Ready` (R21, R260). -/
def State.phaseBit (s : State) : BitVec 1 :=
  match s.phase with
  | .uninitialized => 0
  | .ready => 1

/-- `wr_valid` (R196). -/
def State.wrValid (s : State) : Bool := s.wr.isSome

/-- `i2c_req` (R196): one transaction for each request. -/
def State.i2cReq (s : State) : Bool := s.wrValid

/-- `i2c_addr` (R196): the one address. -/
def State.i2cAddr (s : State) : BitVec 7 := s.build.i2cAddr

/-- `wr_data` and `i2c_wdata`, equal (R191, R196): the byte requested, `none` when there is no request. -/
def State.i2cWdata (s : State) : Option Byte := s.wr

/-- `i2c_len` (R196): one data byte for each transaction (R192). -/
def State.i2cLen (_s : State) : BitVec 1 := 1

/-- `i2c_ack` (R196): the transaction of the request outstanding is over, and the next step takes its answer (DESIGN CHOICE: log 19), so not when
reset is due, which withdraws the request unanswered (DESIGN CHOICE: log 32). -/
def State.i2cAck (s : State) : Bool := s.wr.isSome && !s.resetDue && !s.answers.isEmpty

/-- `i2c_fail`, valid with `i2c_ack` (R196): the answer is Err (log 19). -/
def State.i2cFail (s : State) : Bool := decide (s.answers.head? = some .err)

/-- `wr_done` (R194, R196): the answer, passed back (log 19). -/
def State.wrDone (s : State) : Bool := s.i2cAck

/-- `wr_err`, valid with `wr_done`: the answer, passed back unchanged (R194, R196; log 19). -/
def State.wrErr (s : State) : Bool := s.i2cFail

end Sys2Proof.Machine
end

