-- ==== Sys2Proof/Safety.lean ====
section
/-!
DEFINITION. The terms claims are stated in: when no reset falls inside a piece of work, when the transport answers, what an operation's
expected events are (written from the rules, not from the machine's own sequences), the invariants, and the premises of a claim about the
display (70_reset_and_hazards.md R262).
-/

namespace Sys2Proof.Machine

/-- No reset rises within the next `n` events (R262 premise b). -/
abbrev State.Quiet (n : Nat) (s : State) : Prop := ∀ k, s.rst.head? = some k → n ≤ k

/-- The next `n` writes are answered Ok, and then the answers are `rest` (R262 premise a). -/
abbrev State.Answered (n : Nat) (rest : List Answer) (s : State) : Prop :=
  s.answers = List.replicate n Answer.ok ++ rest

/-- The next `n` writes are answered Ok and the one after them Err. -/
abbrev State.AnsweredErr (n : Nat) (rest : List Answer) (s : State) : Prop :=
  s.answers = List.replicate n Answer.ok ++ Answer.err :: rest

/-- The three writes and three waits of a nibble, all answered Ok, for a packet `p` (R135, R150). -/
def nibbleTrace (build : Build) (p : Byte) : List Event :=
  [.write p .ok, .wait build.eDelayUnits, .write (p ||| 0x04) .ok, .wait build.ePulseUnits, .write (p &&& 0xFB) .ok,
    .wait build.eDelayUnits]

/-- The twelve events of a byte (R136), its packets by the formulas of R83 and R84. -/
def byteTrace (build : Build) (backlight : Bool) (m : Mode) (value : Byte) : List Event :=
  let modeBits : Byte := match m with
    | .command => 0x00
    | .data => 0x01
  let mask : Byte := if backlight then 0x08 else 0x00
  nibbleTrace build (modeBits ||| (value &&& 0xF0) ||| mask) ++
    nibbleTrace build (modeBits ||| ((value <<< 4) &&& 0xF0) ||| mask)

/-- The trace of CONSTRUCT (R110, R112): the power-up wait, then the six bytes. -/
def constructTrace (build : Build) (backlight : Bool) : List Event :=
  Event.waitMs build.powerUpMs ::
    ([0x33, 0x32, 0x06, 0x0C, 0x28, 0x01] : List Byte).flatMap (byteTrace build backlight .command)

/-- The trace of PRINT (R170 to R173): the address byte of line 1 or 2 or, for any other line, the report; then the characters. -/
def printTrace (build : Build) (backlight : Bool) (text : List Byte) (line : BitVec 8) : List Event :=
  (if line = 1#8 then byteTrace build backlight .command 0x80
    else if line = 2#8 then byteTrace build backlight .command 0xC0
    else [Event.invalidLine]) ++ text.flatMap (byteTrace build backlight .data)

/-- The trace of CLEAR (R176). -/
def clearTrace (build : Build) (backlight : Bool) : List Event := byteTrace build backlight .command 0x01

/-- The phase that accepts a public operation, none for a reserved word (R224, R225). -/
def acceptedIn : Instr → Option Phase
  | .construct _ _ _ => some .uninitialized
  | .print _ _ => some .ready
  | .clear => some .ready
  | .cwReserved _ => none
  | .sendbyte _ _ => none
  | .pktPresent _ _ _ => none
  | .pktEset _ _ _ => none
  | .pktEclr _ _ _ => none
  | .lcdReset4 => none
  | .lcdSet4 => none
  | .lcdEntry => none
  | .lcdDispon => none
  | .lcdFunc => none
  | .lcdClear => none
  | .lcdLine1 => none
  | .lcdLine2 => none

/-- The backlight state of an operation's writes: CONSTRUCT's own operand, the configured one for any other (R24, R132). -/
def backlightOf (i : Instr) (s : State) : Bool :=
  match i with
  | .construct _ _ backlight => backlight
  | .print _ _ => s.cfg.backlight
  | .clear => s.cfg.backlight
  | .cwReserved _ => s.cfg.backlight
  | .sendbyte _ _ => s.cfg.backlight
  | .pktPresent _ _ _ => s.cfg.backlight
  | .pktEset _ _ _ => s.cfg.backlight
  | .pktEclr _ _ _ => s.cfg.backlight
  | .lcdReset4 => s.cfg.backlight
  | .lcdSet4 => s.cfg.backlight
  | .lcdEntry => s.cfg.backlight
  | .lcdDispon => s.cfg.backlight
  | .lcdFunc => s.cfg.backlight
  | .lcdClear => s.cfg.backlight
  | .lcdLine1 => s.cfg.backlight
  | .lcdLine2 => s.cfg.backlight

/-- The trace of an accepted public operation, every write answered Ok (R110, R170, R176). -/
def operationTrace (i : Instr) (s : State) : List Event :=
  match i with
  | .construct _ _ backlight => constructTrace s.build backlight
  | .print text line => printTrace s.build s.cfg.backlight text line
  | .clear => clearTrace s.build s.cfg.backlight
  | .cwReserved _ => []
  | .sendbyte _ _ => []
  | .pktPresent _ _ _ => []
  | .pktEset _ _ _ => []
  | .pktEclr _ _ _ => []
  | .lcdReset4 => []
  | .lcdSet4 => []
  | .lcdEntry => []
  | .lcdDispon => []
  | .lcdFunc => []
  | .lcdClear => []
  | .lcdLine1 => []
  | .lcdLine2 => []

/-- The status that goes with an invalid line: 0b010 for a PRINT whose line is neither 1 nor 2, 0b000 for any other operation (R172). -/
def softStatus : Instr → BitVec 3
  | .print _ line => if line = 1#8 ∨ line = 2#8 then 0b000 else 0b010
  | .construct _ _ _ => 0b000
  | .clear => 0b000
  | .cwReserved _ => 0b000
  | .sendbyte _ _ => 0b000
  | .pktPresent _ _ _ => 0b000
  | .pktEset _ _ _ => 0b000
  | .pktEclr _ _ _ => 0b000
  | .lcdReset4 => 0b000
  | .lcdSet4 => 0b000
  | .lcdEntry => 0b000
  | .lcdDispon => 0b000
  | .lcdFunc => 0b000
  | .lcdClear => 0b000
  | .lcdLine1 => 0b000
  | .lcdLine2 => 0b000

/-- The bytes that an accepted public operation sends (R160). -/
def bytesSent : Instr → Nat
  | .construct _ _ _ => 6
  | .print text line => if line = 1#8 ∨ line = 2#8 then text.length + 1 else text.length
  | .clear => 1
  | .cwReserved _ => 0
  | .sendbyte _ _ => 0
  | .pktPresent _ _ _ => 0
  | .pktEset _ _ _ => 0
  | .pktEclr _ _ _ => 0
  | .lcdReset4 => 0
  | .lcdSet4 => 0
  | .lcdEntry => 0
  | .lcdDispon => 0
  | .lcdFunc => 0
  | .lcdClear => 0
  | .lcdLine1 => 0
  | .lcdLine2 => 0

/-- The milliseconds of the waits of an accepted public operation: the power-up wait of CONSTRUCT (R154, R160). -/
def millisWaited (build : Build) : Instr → Nat
  | .construct _ _ _ => build.powerUpMs
  | .print _ _ => 0
  | .clear => 0
  | .cwReserved _ => 0
  | .sendbyte _ _ => 0
  | .pktPresent _ _ _ => 0
  | .pktEset _ _ _ => 0
  | .pktEclr _ _ _ => 0
  | .lcdReset4 => 0
  | .lcdSet4 => 0
  | .lcdEntry => 0
  | .lcdDispon => 0
  | .lcdFunc => 0
  | .lcdClear => 0
  | .lcdLine1 => 0
  | .lcdLine2 => 0

/-- The bytes, each with its mode, that an accepted public operation gives the display (R112, R171 to R173, R176). -/
def bytesShown : Instr → List (Mode × Byte)
  | .construct _ _ _ => [0x33, 0x32, 0x06, 0x0C, 0x28, 0x01].map (fun b => (Mode.command, b))
  | .print text line => (if line = 1#8 then [(Mode.command, 0x80)] else if line = 2#8 then [(Mode.command, 0xC0)] else []) ++
    text.map (fun c => (Mode.data, c))
  | .clear => [(.command, 0x01)]
  | .cwReserved _ => []
  | .sendbyte _ _ => []
  | .pktPresent _ _ _ => []
  | .pktEset _ _ _ => []
  | .pktEclr _ _ _ => []
  | .lcdReset4 => []
  | .lcdSet4 => []
  | .lcdEntry => []
  | .lcdDispon => []
  | .lcdFunc => []
  | .lcdClear => []
  | .lcdLine1 => []
  | .lcdLine2 => []

/-- `t` came of `s` by events in which no reset rose. -/
abbrev NoReset (s t : State) : Prop := t.rst.length = s.rst.length

/-- The public operations: those of the command port (R14). -/
def isCommand : Instr → Bool
  | .construct _ _ _ => true
  | .print _ _ => true
  | .clear => true
  | .cwReserved _ => true
  | .sendbyte _ _ => false
  | .pktPresent _ _ _ => false
  | .pktEset _ _ _ => false
  | .pktEclr _ _ _ => false
  | .lcdReset4 => false
  | .lcdSet4 => false
  | .lcdEntry => false
  | .lcdDispon => false
  | .lcdFunc => false
  | .lcdClear => false
  | .lcdLine1 => false
  | .lcdLine2 => false

/-- The internal operations that send one byte (R87, R130), with the byte. -/
def sentByte : Instr → Option (Mode × Byte)
  | .sendbyte m v => some (m, v)
  | .lcdReset4 => some (.command, 0x33)
  | .lcdSet4 => some (.command, 0x32)
  | .lcdEntry => some (.command, 0x06)
  | .lcdDispon => some (.command, 0x0C)
  | .lcdFunc => some (.command, 0x28)
  | .lcdClear => some (.command, 0x01)
  | .lcdLine1 => some (.command, 0x80)
  | .lcdLine2 => some (.command, 0xC0)
  | .construct _ _ _ => none
  | .print _ _ => none
  | .clear => none
  | .cwReserved _ => none
  | .pktPresent _ _ _ => none
  | .pktEset _ _ _ => none
  | .pktEclr _ _ _ => none

/-- The internal operations that make one bus write (R100), with the byte: `d` in bits 7 to 4, `b` in bit 3, Enable in bit 2, RS in bit 0
(R81). -/
def writtenByte : Instr → Option Byte
  | .pktPresent d b r => some (d ++ BitVec.ofBool b ++ 0#1 ++ 0#1 ++ BitVec.ofBool r.bit)
  | .pktEset d b r => some (d ++ BitVec.ofBool b ++ 1#1 ++ 0#1 ++ BitVec.ofBool r.bit)
  | .pktEclr d b r => some (d ++ BitVec.ofBool b ++ 0#1 ++ 0#1 ++ BitVec.ofBool r.bit)
  | .construct _ _ _ => none
  | .print _ _ => none
  | .clear => none
  | .cwReserved _ => none
  | .sendbyte _ _ => none
  | .lcdReset4 => none
  | .lcdSet4 => none
  | .lcdEntry => none
  | .lcdDispon => none
  | .lcdFunc => none
  | .lcdClear => none
  | .lcdLine1 => none
  | .lcdLine2 => none

/-- The units of the waits in a trace, and its milliseconds (R160). -/
def waitUnits : List Event → Nat
  | [] => 0
  | .wait n :: es => n + waitUnits es
  | .waitMs _ :: es => waitUnits es
  | .write _ _ :: es => waitUnits es
  | .invalidLine :: es => waitUnits es

/-- The milliseconds of the power-up waits in a trace (R160). -/
def waitMillis : List Event → Nat
  | [] => 0
  | .waitMs n :: es => n + waitMillis es
  | .wait _ :: es => waitMillis es
  | .write _ _ :: es => waitMillis es
  | .invalidLine :: es => waitMillis es

/-- No two writes of a trace without a wait of at least one unit between them (R64, R136): `armed` says that a write has gone out since
the last wait. -/
def spacedFrom (armed : Bool) : List Event → Bool
  | [] => true
  | .write _ _ :: es => !armed && spacedFrom true es
  | .wait n :: es => spacedFrom (armed && decide (n = 0)) es
  | .waitMs n :: es => spacedFrom (armed && decide (n = 0)) es
  | .invalidLine :: es => spacedFrom armed es

/-- The toggle writes of a write trace: the second and third of every three (R137). -/
def toggleWrites : List Byte → List Byte
  | _ :: rise :: fall :: rest => rise :: fall :: toggleWrites rest
  | _ => []

/-- Whether a piece of work is a bus write. -/
def primIsWrite : Prim → Bool
  | .wait _ => false
  | .report => false
  | .write _ _ => true

/-- A byte the block may write (R86, R141): R/W clear. -/
def packetLegal (b : Byte) : Bool := !b.getLsbD 1

/-- A packet that belongs to its place in the nibble (R81). -/
def primLegal : Prim → Bool
  | .wait _ => true
  | .report => true
  | .write .present b => !b.getLsbD 1 && !b.getLsbD 2
  | .write .eset b => !b.getLsbD 1 && b.getLsbD 2
  | .write .eclr b => !b.getLsbD 1 && !b.getLsbD 2

/-- An event that carries no byte the block may not write (R86, R141). -/
def eventLegal : Event → Bool
  | .write b _ => packetLegal b
  | .wait _ => true
  | .waitMs _ => true
  | .invalidLine => true

/-- The next state, if the outcome is one. -/
def outState (o : Host.Outcome State Fault Refusal) : Option State :=
  match o with
  | .next s => some s
  | .fault _ => none
  | .refused _ => none

/-- An entry of the queue that is a word of its port's format (R81, R87, R88, R94). -/
def itemLegal : Item → Bool
  | .prim p => primLegal p
  | .uop _ => true
  | .lcdcmd b => decide (b ∈ ([0x33, 0x32, 0x06, 0x0C, 0x28, 0x01, 0x80, 0xC0] : List Byte))

/-- The invariant of the machine: memory in canonical form; the waits no shorter than the spec allows; busy exactly while an operation is
in progress, and then with work left; CONSTRUCT in progress only in `Uninitialized`, PRINT and CLEAR only in `Ready`; the wait counter idle
between events; only status words that are ever produced; no byte with R/W set written, and in the queue only words of their formats; a
request outstanding only for the write next in the queue; the backlight bit of the configuration in every byte waiting to be written; and a
word half received only while beats are missing. -/
structure State.Inv (s : State) : Prop where
  bus : s.bus.wf = true
  build : s.build.Legal
  busy : s.busy = true ↔ s.seq.op ≠ .idle
  goesOn : s.busy = true → s.work ≠ []
  construct : s.seq.op = .construct → s.phase = .uninitialized
  print : s.seq.op = .print → s.phase = .ready
  clear : s.seq.op = .clear → s.phase = .ready
  tmr : s.tmr = 0
  status : statusLegal s.status = true
  results : s.results.all statusLegal = true
  trace : s.trace.all eventLegal = true
  queue : s.work.all itemLegal = true
  request : ∀ b, s.wr = some b → ∃ place rest, s.work = .prim (.write place b) :: rest
  backlight : ∀ place b, Item.prim (.write place b) ∈ s.work → b.getLsbD 3 = s.cfg.backlight
  received : ∀ r, s.rx = some r → r.got.length < textBeats r.word

/-- The premises of a claim about the display (R262): it is in step, which no error and no cut has undone (a, b, e), expects a high nibble, and
its Enable line is low; and if it is at a clear command, it is given its time before the next byte (the time half of d). That it has power, the
other half of d, needs no field: the model has no loss of power (DESIGN CHOICE: log 33). -/
structure State.DisplayReady (s : State) : Prop where
  sync : s.sync = .inStep
  half : s.device.half = none
  enable : s.lines.getLsbD 2 = false
  time : s.device.busy = true → s.settled.head? = some true

/-- The cursor `n` data bytes further (R38: auto-increment). -/
def cursorOn (n : Nat) : Cursor → Cursor
  | .home k => .home (k + n)
  | .line base k => .line base (k + n)

end Sys2Proof.Machine
end

