-- ==== Sys2Proof/Certificates/Slice0/Obligations.lean ====
section
/-!
DEFINITION. The statements about the machine, made from the numbered rules of spec/.
-/

open Sys2Proof Sys2Proof.Machine

/-! ## Encodings -/

/-- Decoding the encoding of a well-formed operation gives it back, every operand at every value (30_encoding.md, sections 1 to 4). -/
def Obligations.DecodeOfEncode : Prop :=
  ∀ i : Instr, WellFormed i → decode (encode i) = .ok i

/-- The other way on the three internal formats, where no bit is ignored: a word that decodes is the encoding of what it decodes to. -/
def Obligations.EncodeOfDecodeInternal : Prop :=
  (∀ w i, decode (.uop w) = .ok i → encode i = .uop w) ∧
  (∀ b i, decode (.lcdcmd b) = .ok i → encode i = .lcdcmd b) ∧
  (∀ place b i, decode (.pkt place b) = .ok i → encode i = .pkt place b)

/-- Words of each format, written out from the spec's encodings (R81, R87 to R92; V40, V41, V20, V9). -/
def Obligations.SpecWordsDecode : Prop :=
  decode (.cw 0x00010210 []) = .ok (.construct 16 2 true) ∧
  decode (.cw 0x40000201 [0x48, 0x69]) = .ok (.print [0x48, 0x69] 1) ∧
  decode (.cw 0x80000000 []) = .ok .clear ∧
  decode (.cw 0xC0000000 []) = .ok (.cwReserved 0) ∧
  decode (.uop 0b101000001) = .ok (.sendbyte .data 0x41) ∧
  decode (.pkt .present 0x49) = .ok (.pktPresent 4 true .data) ∧
  decode (.pkt .eset 0x4D) = .ok (.pktEset 4 true .data) ∧
  decode (.pkt .eclr 0x49) = .ok (.pktEclr 4 true .data) ∧
  decode (.lcdcmd 0x33) = .ok .lcdReset4 ∧
  decode (.lcdcmd 0xC0) = .ok .lcdLine2

/-- Bits 31 to 30 of the command word select the operation, the fields stand where R90 to R92 put them, and the ignored bits, whatever
they are, change nothing (R94). -/
def Obligations.CommandWordFields : Prop :=
  (∀ (ignored : BitVec 13) (backlight : Bool) (height width : BitVec 8),
    decode (.cw (0b00#2 ++ ignored ++ BitVec.ofBool backlight ++ height ++ width) []) =
      .ok (.construct width height backlight)) ∧
  (∀ (ignored : BitVec 6) (len : BitVec 16) (line : BitVec 8) (text : List Byte), text.length = len.toNat →
    decode (.cw (0b01#2 ++ ignored ++ len ++ line) text) = .ok (.print text line)) ∧
  (∀ ignored : BitVec 30, decode (.cw (0b10#2 ++ ignored) []) = .ok .clear) ∧
  (∀ payload : BitVec 30, decode (.cw (0b11#2 ++ payload) []) = .ok (.cwReserved payload))

/-- Of the internal formats (R94): a packet with bit 1 set is none, all 512 `UOP` words are SENDBYTE, and the command bytes are exactly
the eight of R87. -/
def Obligations.ReservedWordsRejected : Prop :=
  (∀ place b, b.getLsbD 1 = true → decode (.pkt place b) = .error .readWriteSet) ∧
  (∀ w, ∃ m v, decode (.uop w) = .ok (.sendbyte m v)) ∧
  (∀ b, (∃ i, decode (.lcdcmd b) = .ok i) ↔ b ∈ ([0x33, 0x32, 0x06, 0x0C, 0x28, 0x01, 0x80, 0xC0] : List Byte))

/-! ## The step -/

/-- A whole request at the idle command port, the text in bits 7 to 0 of its beats, no reset before its last transfer: the step takes it off the
port and runs it (R91, R260). -/
def Obligations.StepRunsCommandWord : Prop :=
  ∀ (s : State) (w : BitVec 32) (beats rest : List (BitVec 32)) (i : Instr),
    s.Quiet (1 + beats.length) → s.work = [] → s.busy = false → s.rx = none →
    s.cmd = w :: beats ++ rest → beats.length = textBeats w →
    decode (.cw w (beats.map (BitVec.extractLsb' 0 8))) = .ok i →
    step s = exec i { s with cmd := rest, rst := rstAfter (1 + beats.length) s.rst }

/-- A word at the head of the sequencer's queue: the step takes it out and runs it, and if that leaves a busy block nothing more to do, the
operation in progress completes with it. The queue and a step that takes one entry, and completes with the last, are the model's choices (logs 14
and 1); the words are those of R80 and R88, and that CONSTRUCT completes with its last event, "all at once", is R113. -/
def Obligations.StepRunsQueuedWord : Prop :=
  (∀ (s : State) (rest : List Item) (i : Instr), s.rst.head? ≠ some 0 →
    (∀ w, s.work = .uop w :: rest → decode (.uop w) = .ok i → step s = endOfWork (exec i { s with work := rest })) ∧
    (∀ b, s.work = .lcdcmd b :: rest → decode (.lcdcmd b) = .ok i → step s = endOfWork (exec i { s with work := rest })) ∧
    (∀ place b, s.work = .prim (.write place b) :: rest → decode (.pkt place b) = .ok i →
      step s = endOfWork (exec i { s with work := rest }))) ∧
  (∀ u : State, endOfWork (.next u) = .next (if u.busy = true ∧ u.work = [] then u.complete else u))

/-- Text beats may come later than their word (R91): the step that takes a PRINT word with beats missing only takes it and those offered; while
some are still missing the port only takes what is offered; and with the last of them the operation runs on all of them, first beat first. In
Uninitialized too: that the refusal is decided with the last beat is the model's reading (log 17). -/
def Obligations.BeatsGatherAcrossSteps : Prop :=
  (∀ (s : State) (w : BitVec 32) (beats : List (BitVec 32)), s.work = [] → s.busy = false → s.rx = none →
    s.cmd = w :: beats → beats.length < textBeats w → s.Quiet (1 + beats.length) →
    step s = .next { s with
      rx := some { word := w, got := beats.map (BitVec.extractLsb' 0 8) }
      cmd := []
      rst := rstAfter (1 + beats.length) s.rst }) ∧
  (∀ (s : State) (w : BitVec 32) (got : List Byte), s.rst.head? ≠ some 0 → s.work = [] → s.busy = false →
    s.rx = some { word := w, got := got } →
    (got.length + s.cmd.length < textBeats w → s.Quiet s.cmd.length →
      step s = .next { s with
        rx := some { word := w, got := got ++ s.cmd.map (BitVec.extractLsb' 0 8) }
        cmd := []
        rst := rstAfter s.cmd.length s.rst }) ∧
    (∀ (beats rest : List (BitVec 32)) (i : Instr), s.cmd = beats ++ rest → got.length + beats.length = textBeats w →
      s.Quiet beats.length → decode (.cw w (got ++ beats.map (BitVec.extractLsb' 0 8))) = .ok i →
      step s = exec i { s with rx := none, cmd := rest, rst := rstAfter beats.length s.rst }))

/-- The hardware reset (R39, R240, R242): due at a step, it comes first. Phase, busy, status, sequencer, wait counter and request port take
their reset values, nothing is emitted and no status is reported; the build and the inputs still to come are as before. The expander holds what
it held or the byte of the write outstanding or next (log 23), which gets no answer (log 32), and no other address changes; with no operation in
progress nothing of the environment changes. -/
def Obligations.StepTakesReset : Prop :=
  ∀ s : State, s.rst.head? = some 0 →
    ∃ t, step s = .next t ∧
      t.phase = .uninitialized ∧ t.busy = false ∧ t.status = 0b000 ∧ t.seq.op = .idle ∧ t.tmr = 0 ∧ t.wr = none ∧
      t.work = [] ∧ t.rx = none ∧ t.trace = s.trace ∧ t.results = s.results ∧ t.build = s.build ∧
      t.cmd = s.cmd ∧ t.answers = s.answers ∧ t.settled = s.settled ∧ t.rst = s.rst.tail ∧
      (t.lines = s.lines ∨ s.wr = some t.lines ∨
        ∃ item rest place, s.work = item :: rest ∧ (expand s.cfg.backlight item).head? = some (.write place t.lines)) ∧
      (∀ a, a ≠ s.build.i2cAddr.toNat → t.bus.read a = s.bus.read a) ∧
      (s.inProgress = false → t.bus = s.bus ∧ t.device = s.device)

/-- Idle, with nothing offered, the block does nothing (R241). -/
def Obligations.IdleBlockDoesNothing : Prop :=
  ∀ s : State, s.rst.head? ≠ some 0 → s.work = [] → s.busy = false → s.rx = none → s.cmd = [] → step s = .next s

/-- While busy the command port takes nothing (R29, R254). -/
def Obligations.BusyPortTakesNothing : Prop :=
  ∀ s t : State, s.busy = true → step s = .next t → t.cmd = s.cmd

/-- A write that the transport does not answer holds the operation: the request stands, busy stays, nothing is emitted, and the step
repeats itself for as long as no answer and no reset comes (R199). -/
def Obligations.UnansweredWriteHolds : Prop :=
  ∀ (s : State) (place : Place) (b : Byte) (rest : List Item),
    s.rst.head? ≠ some 0 → s.work = .prim (.write place b) :: rest → primLegal (.write place b) = true → s.answers = [] →
    step s = .next { s with wr := some b } ∧
    step { s with wr := some b } = .next { s with wr := some b }

/-! ## The public operations -/

/-- CONSTRUCT, every write answered Ok (R110 to R113): the configuration is written, the trace is the power-up wait and then the six bytes of
INIT in order, and with its last event the phase becomes Ready, the status 0b000 and busy 0. -/
def Obligations.ConstructSucceeds : Prop :=
  ∀ (s : State) (width height : BitVec 8) (backlight : Bool) (rest : List Answer),
    s.phase = .uninitialized → s.busy = false → s.Quiet 73 → s.Answered 36 rest →
    ∃ t, exec (.construct width height backlight) s = .next t ∧
      t.trace = s.trace ++ constructTrace s.build backlight ∧
      t.cfg = { width := width, height := height, backlight := backlight } ∧
      t.phase = .ready ∧ t.status = 0b000 ∧ t.busy = false ∧ t.seq.op = .idle ∧
      t.results = s.results ++ [0b000] ∧ t.answers = rest ∧ t.work = s.work ∧ t.rst = rstAfter 73 s.rst

/-- The geometry has no effect on what CONSTRUCT does, whatever the transport answers and whenever reset rises (R116). -/
def Obligations.ConstructIgnoresGeometry : Prop :=
  ∀ (s t t' : State) (width height width' height' : BitVec 8) (backlight : Bool),
    exec (.construct width height backlight) s = .next t →
    exec (.construct width' height' backlight) s = .next t' →
    t'.trace = t.trace ∧ t'.phase = t.phase ∧ t'.status = t.status ∧ t'.busy = t.busy ∧ t'.results = t.results ∧
      t'.work = t.work ∧ t'.bus = t.bus

/-- PRINT on line 1 or 2, every write answered Ok (R170, R171, R173): the address byte in Command mode, then every character in Data mode;
status 0b000; phase and configuration as before; text and line latched (R27). -/
def Obligations.PrintValidLine : Prop :=
  ∀ (s : State) (text : List Byte) (line : BitVec 8) (address : Byte) (rest : List Answer),
    (line = 1#8 ∧ address = 0x80 ∨ line = 2#8 ∧ address = 0xC0) →
    s.phase = .ready → s.busy = false → s.Quiet (12 * (1 + text.length)) → s.Answered (6 * (1 + text.length)) rest →
    ∃ t, exec (.print text line) s = .next t ∧
      t.trace = s.trace ++ byteTrace s.build s.cfg.backlight .command address ++
        text.flatMap (byteTrace s.build s.cfg.backlight .data) ∧
      t.status = 0b000 ∧ t.busy = false ∧ t.seq.op = .idle ∧ t.phase = .ready ∧ t.cfg = s.cfg ∧
      t.latch = { text := text, line := line } ∧ t.results = s.results ++ [0b000] ∧ t.answers = rest ∧ t.work = s.work

/-- PRINT on any other line (R172, R175): the report once, no address byte, and still every character; status 0b010. -/
def Obligations.PrintInvalidLine : Prop :=
  ∀ (s : State) (text : List Byte) (line : BitVec 8) (rest : List Answer),
    line ≠ 1#8 → line ≠ 2#8 →
    s.phase = .ready → s.busy = false → s.Quiet (1 + 12 * text.length) → s.Answered (6 * text.length) rest →
    ∃ t, exec (.print text line) s = .next t ∧
      t.trace = s.trace ++ [Event.invalidLine] ++ text.flatMap (byteTrace s.build s.cfg.backlight .data) ∧
      t.status = 0b010 ∧ t.busy = false ∧ t.seq.op = .idle ∧ t.phase = .ready ∧ t.cfg = s.cfg ∧
      t.latch = { text := text, line := line } ∧ t.results = s.results ++ [0b010] ∧ t.answers = rest ∧ t.work = s.work

/-- CLEAR, every write answered Ok (R176, R177): the twelve events of the byte 0x01 in Command mode and no event after them; status 0b000. -/
def Obligations.ClearSucceeds : Prop :=
  ∀ (s : State) (rest : List Answer),
    s.phase = .ready → s.busy = false → s.Quiet 12 → s.Answered 6 rest →
    ∃ t, exec .clear s = .next t ∧
      t.trace = s.trace ++ byteTrace s.build s.cfg.backlight .command 0x01 ∧
      t.status = 0b000 ∧ t.busy = false ∧ t.seq.op = .idle ∧ t.phase = .ready ∧ t.cfg = s.cfg ∧ t.latch = s.latch ∧
      t.results = s.results ++ [0b000] ∧ t.answers = rest ∧ t.work = s.work

/-- CLEAR twice (R178): twice the events of R176, six writes each time, four of them toggle writes. And for any operation: its events depend on
its operands and the backlight (and, as everywhere, on the build, the phase, the answers and the resets) and not on the geometry or on
anything sent before. -/
def Obligations.OperationsRepeat : Prop :=
  (∀ (s : State) (rest : List Answer),
    s.phase = .ready → s.busy = false → s.Quiet 24 → s.Answered 12 rest →
    ∃ t u, exec .clear s = .next t ∧ exec .clear t = .next u ∧
      t.trace = s.trace ++ clearTrace s.build s.cfg.backlight ∧ u.trace = t.trace ++ clearTrace s.build s.cfg.backlight ∧
      (writesOf (clearTrace s.build s.cfg.backlight)).length = 6 ∧
      (toggleWrites (writesOf (clearTrace s.build s.cfg.backlight))).length = 4) ∧
  (∀ (i : Instr) (s s' t t' : State), isCommand i = true →
    s'.phase = s.phase → s'.busy = s.busy → s'.cfg.backlight = s.cfg.backlight → s'.build = s.build →
    s'.answers = s.answers → s'.rst = s.rst →
    exec i s = .next t → exec i s' = .next t' →
    ∃ events, t.trace = s.trace ++ events ∧ t'.trace = s'.trace ++ events)

/-- The refusals of the gating table (R224, R225): an operation that the phase does not accept, and a reserved word in either phase, is not
begun, and nothing of the state changes but the status, 0b100, and its report; the text beats of a refused PRINT are taken from the port and
dropped. -/
def Obligations.RefusedInWrongPhase : Prop :=
  (∀ (i : Instr) (s : State), isCommand i = true → s.busy = false → acceptedIn i ≠ some s.phase →
    exec i s = .next { s with status := 0b100, results := s.results ++ [0b100] }) ∧
  (∀ (s : State) (w : BitVec 32) (beats rest : List (BitVec 32)),
    s.Quiet (1 + beats.length) → s.work = [] → s.busy = false → s.rx = none → s.phase = .uninitialized →
    w.extractLsb' 30 2 = 0b01 → s.cmd = w :: beats ++ rest → beats.length = (w.extractLsb' 8 16).toNat →
    step s = .next { s with
      cmd := rest
      rst := rstAfter (1 + beats.length) s.rst
      status := 0b100
      results := s.results ++ [0b100] })

/-- A command word run while busy does nothing (the model's choice, log 16, for what the closed port of R29 never lets happen). -/
def Obligations.BusyCommandIgnored : Prop :=
  ∀ (i : Instr) (s : State), isCommand i = true → s.busy = true → exec i s = .next s

/-! ## The ways an operation is ended early -/

/-- A bus error at write number `k` (from 0) of a public operation (R212, R218; R114 for CONSTRUCT): every event before that write has
happened and none after it; status 0b001, or 0b011 for a PRINT whose line was invalid; the block is idle and its phase is unchanged. -/
def Obligations.BusErrorEndsOperation : Prop :=
  ∀ (i : Instr) (s : State) (k : Nat) (rest : List Answer),
    acceptedIn i = some s.phase → s.busy = false → s.Quiet (operationTrace i s).length →
    k < (writesOf (operationTrace i s)).length → s.AnsweredErr k rest →
    ∃ t before b after, exec i s = .next t ∧
      operationTrace i s = before ++ Event.write b .ok :: after ∧ (writesOf before).length = k ∧
      t.trace = s.trace ++ before ++ [Event.write b .err] ∧
      t.status = 0b001 ||| softStatus i ∧ t.results = s.results ++ [0b001 ||| softStatus i] ∧
      t.busy = false ∧ t.seq.op = .idle ∧ t.phase = s.phase ∧ t.work = [] ∧ t.wr = none ∧ t.answers = rest

/-- After a bus error the block still accepts the operations of its phase and performs them as if nothing had been (R221; R114 for
CONSTRUCT). -/
def Obligations.OperationsGoOnAfterBusError : Prop :=
  ∀ (i j : Instr) (s t : State) (k : Nat) (rest : List Answer),
    acceptedIn i = some s.phase → acceptedIn j = some s.phase → s.busy = false → s.rst = [] →
    k < (writesOf (operationTrace i s)).length →
    s.AnsweredErr k (List.replicate (writesOf (operationTrace j t)).length Answer.ok ++ rest) →
    exec i s = .next t →
    t.phase = s.phase ∧ t.busy = false ∧
    ∃ u, exec j t = .next u ∧ u.trace = t.trace ++ operationTrace j t ∧ u.status = softStatus j ∧ u.busy = false

/-- After a failed CONSTRUCT the configuration registers keep the values written at acceptance (R114). -/
def Obligations.FailedConstructKeepsConfiguration : Prop :=
  ∀ (s : State) (width height : BitVec 8) (backlight : Bool) (k : Nat) (rest : List Answer),
    s.phase = .uninitialized → s.busy = false → s.Quiet 73 → k < 36 → s.AnsweredErr k rest →
    ∃ t, exec (.construct width height backlight) s = .next t ∧ t.phase = .uninitialized ∧ t.status = 0b001 ∧
      t.busy = false ∧ t.cfg = { width := width, height := height, backlight := backlight }

/-- A bus error at write `k` of a byte (R139): the first `2 k` events of its trace and the failed write, and nothing after it, not even the
wait that follows the write. -/
def Obligations.BusErrorInsideByte : Prop :=
  ∀ (i : Instr) (m : Mode) (v : Byte) (s : State) (k : Nat) (rest : List Answer),
    sentByte i = some (m, v) → s.Quiet 12 → k < 6 → s.AnsweredErr k rest →
    ∃ t b, exec i s = .next t ∧ (byteTrace s.build s.cfg.backlight m v)[2 * k]? = some (Event.write b .ok) ∧
      t.trace = s.trace ++ (byteTrace s.build s.cfg.backlight m v).take (2 * k) ++ [Event.write b .err] ∧
      t.busy = false ∧ t.seq.op = .idle ∧ t.phase = s.phase ∧ t.work = [] ∧ t.answers = rest

/-- A reset inside a public operation (R242), whatever answer the write outstanding, if any, would have had: the events before it and no more, no
status reported, the state of R240; and the expander holds the last byte written or, if a write was next, perhaps that one: that the write next
counts as outstanding, and that the answers to come are kept for the writes after the reset, are the model's choices (logs 23 and 32). -/
def Obligations.ResetCutsOperation : Prop :=
  ∀ (i : Instr) (s : State) (k : Nat) (later : List Nat) (rest : List Answer),
    acceptedIn i = some s.phase → s.busy = false → s.wr = none → s.rst = k :: later → k < (operationTrace i s).length →
    s.Answered (writesOf ((operationTrace i s).take k)).length rest →
    ∃ t, exec i s = .next t ∧ t.trace = s.trace ++ (operationTrace i s).take k ∧ t.results = s.results ∧
      t.phase = .uninitialized ∧ t.busy = false ∧ t.status = 0b000 ∧ t.seq.op = .idle ∧ t.tmr = 0 ∧ t.wr = none ∧
      t.work = [] ∧ t.rst = later ∧ t.answers = rest ∧
      (t.lines = ((writesOf ((operationTrace i s).take k)).getLast?).getD s.lines ∨
        (operationTrace i s)[k]? = some (Event.write t.lines .ok))

/-- Where the sequencer stands while write number `k` (from 0) of an operation waits for its answer (R26, R29): busy, the request on the write
port, and `seq` at that write; in PRINT in the stage ADDR while the address byte is sent and then in BODY with `idx` over the text, and for an
invalid line in BODY from the first, the skip of R179. That `idx` is 0 in the stage ADDR is the model's choice (log 31). -/
def Obligations.SequencerPosition : Prop :=
  ∀ (s : State) (k : Nat), s.busy = false → s.Answered k [] →
    (∀ width height backlight, s.phase = .uninitialized → s.Quiet 73 → k < 36 →
      ∃ t, exec (.construct width height backlight) s = .next t ∧ t.busy = true ∧ t.wr.isSome = true ∧
        t.seq.op = .construct ∧ t.seq.stage = .body ∧ t.seq.idx = k / 6 ∧
        t.seq.nib = (if k % 6 < 3 then .hi else .lo) ∧ t.seq.step.val = 2 * (k % 3)) ∧
    (∀ text line, s.phase = .ready → line = 1#8 ∨ line = 2#8 → s.Quiet (12 * (1 + text.length)) → k < 6 * (1 + text.length) →
      ∃ t, exec (.print text line) s = .next t ∧ t.busy = true ∧ t.wr.isSome = true ∧
        t.seq.op = .print ∧ t.seq.stage = (if k < 6 then .addr else .body) ∧ t.seq.idx = k / 6 - 1 ∧
        t.seq.nib = (if k % 6 < 3 then .hi else .lo) ∧ t.seq.step.val = 2 * (k % 3)) ∧
    (∀ text line, s.phase = .ready → line ≠ 1#8 → line ≠ 2#8 → s.Quiet (1 + 12 * text.length) → k < 6 * text.length →
      ∃ t, exec (.print text line) s = .next t ∧ t.busy = true ∧ t.wr.isSome = true ∧
        t.seq.op = .print ∧ t.seq.stage = .body ∧ t.seq.idx = k / 6 ∧
        t.seq.nib = (if k % 6 < 3 then .hi else .lo) ∧ t.seq.step.val = 2 * (k % 3)) ∧
    (s.phase = .ready → s.Quiet 12 → k < 6 →
      ∃ t, exec .clear s = .next t ∧ t.busy = true ∧ t.wr.isSome = true ∧
        t.seq.op = .clear ∧ t.seq.stage = .body ∧ t.seq.idx = 0 ∧
        t.seq.nib = (if k < 3 then .hi else .lo) ∧ t.seq.step.val = 2 * (k % 3))

/-! ## The internal operations -/

/-- SENDBYTE and the eight command bytes, every write answered Ok (R130, R136, R87): the twelve events of the byte; no state of the block is
written but the sequencer's position and the idle wait counter. -/
def Obligations.SendByteTrace : Prop :=
  ∀ (i : Instr) (m : Mode) (v : Byte) (s : State) (rest : List Answer),
    sentByte i = some (m, v) → s.Quiet 12 → s.Answered 6 rest →
    ∃ t, exec i s = .next t ∧ t.trace = s.trace ++ byteTrace s.build s.cfg.backlight m v ∧
      t.phase = s.phase ∧ t.cfg = s.cfg ∧ t.busy = s.busy ∧ t.status = s.status ∧ t.latch = s.latch ∧
      t.work = s.work ∧ t.results = s.results ∧ t.tmr = 0 ∧ t.wr = none ∧ t.answers = rest

/-- BUSWRITE, one packet (R190, R191): with Ok or with Err it is one event with exactly the byte of the packet. Answered Ok, no state of the
block is written, and the expander holds the byte. Answered Err, it is the bus error (R212): the operation in progress is ended, and whether the
byte reached the expander is left open (U3). Not answered, the request stands, and the write stays next in the queue. That the error sets the
status also with no operation in progress is the model's choice (log 18), and so is the queue (logs 3 and 14). -/
def Obligations.PacketWrite : Prop :=
  ∀ (i : Instr) (b : Byte) (s : State), writtenByte i = some b → s.Quiet 1 →
    (∀ rest, s.answers = .ok :: rest →
      ∃ t, exec i s = .next t ∧ t.trace = s.trace ++ [Event.write b .ok] ∧ t.answers = rest ∧ t.wr = none ∧
        t.bus.read s.build.i2cAddr.toNat = b ∧
        (∀ a, a ≠ s.build.i2cAddr.toNat → t.bus.read a = s.bus.read a) ∧
        t.phase = s.phase ∧ t.cfg = s.cfg ∧ t.busy = s.busy ∧ t.status = s.status ∧ t.latch = s.latch ∧ t.work = s.work ∧
        t.results = s.results) ∧
    (∀ rest, s.answers = .err :: rest →
      ∃ t, exec i s = .next t ∧ t.trace = s.trace ++ [Event.write b .err] ∧ t.answers = rest ∧ t.wr = none ∧
        (t.bus.read s.build.i2cAddr.toNat = b ∨ t.bus.read s.build.i2cAddr.toNat = s.bus.read s.build.i2cAddr.toNat) ∧
        (∀ a, a ≠ s.build.i2cAddr.toNat → t.bus.read a = s.bus.read a) ∧
        t.sync = .lost ∧ t.phase = s.phase ∧ t.cfg = s.cfg ∧ t.busy = false ∧ t.seq.op = .idle ∧ t.work = [] ∧
        t.status.getLsbD 0 = true ∧ t.status.getLsbD 2 = false) ∧
    (s.answers = [] →
      ∃ place, decode (.pkt place b) = .ok i ∧
        exec i s = .next { s with wr := some b, work := .prim (.write place b) :: s.work })

/-! ## What every write keeps to -/

/-- Every bus write of a public operation or of a sent byte carries the backlight bit of R132, whatever the answers and whenever reset
rises. -/
def Obligations.BacklightInEveryWrite : Prop :=
  ∀ (i : Instr) (s t : State) (events : List Event), isCommand i = true ∨ sentByte i ≠ none →
    exec i s = .next t → t.trace = s.trace ++ events →
    ∀ b r, Event.write b r ∈ events → b.getLsbD 3 = backlightOf i s

/-- The overlay invariant (R132): whatever the step does, every write it makes carries the backlight bit of the configuration, the writes of an
operation that was held up for want of an answer among them. -/
def Obligations.BacklightInEveryStep : Prop :=
  ∀ (s t : State) (events : List Event), s.Inv → step s = .next t → NoReset s t → t.trace = s.trace ++ events →
    ∀ b r, Event.write b r ∈ events → b.getLsbD 3 = t.cfg.backlight

/-- Of the writes of a public operation, numbered from 0, exactly those with remainder 1 by 3 have Enable set, and none has R/W set, whatever
the answers and whenever reset rises (R85, R141 a and c). -/
def Obligations.EnableInSecondWriteOnly : Prop :=
  ∀ (i : Instr) (s t : State) (events : List Event), isCommand i = true →
    exec i s = .next t → t.trace = s.trace ++ events →
    ∀ (k : Nat) (b : Byte), (writesOf events)[k]? = some b →
      b.getLsbD 2 = decide (k % 3 = 1) ∧ b.getLsbD 1 = false

/-- The five points of R141 for the six writes of a sent byte. -/
def Obligations.WritesOfAByte : Prop :=
  ∀ (i : Instr) (m : Mode) (v : Byte) (s t : State) (events : List Event), sentByte i = some (m, v) →
    exec i s = .next t → t.trace = s.trace ++ events →
    (writesOf events).length ≤ 6 ∧
    ∀ (k : Nat) (b : Byte), (writesOf events)[k]? = some b →
      b.getLsbD 1 = false ∧ b.getLsbD 3 = s.cfg.backlight ∧ b.getLsbD 2 = decide (k % 3 = 1) ∧
      b.getLsbD 0 = m.bit ∧ b.extractLsb' 4 4 = (if k < 3 then v.extractLsb' 4 4 else v.extractLsb' 0 4)

/-- Between any two writes of an operation there is a wait of at least one unit (R64, R136), whatever the answers and whenever reset
rises. -/
def Obligations.WaitBetweenWrites : Prop :=
  ∀ (i : Instr) (s t : State) (events : List Event), isCommand i = true ∨ sentByte i ≠ none → s.build.Legal →
    exec i s = .next t → t.trace = s.trace ++ events → spacedFrom false events = true

/-- The waits of an operation that runs to its end add up as R160 says: `4 D + 2 P` units for each byte sent, and for CONSTRUCT the power-up
wait besides. -/
def Obligations.WaitSums : Prop :=
  ∀ (i : Instr) (s t : State) (events : List Event) (rest : List Answer),
    exec i s = .next t → t.trace = s.trace ++ events →
    (sentByte i ≠ none → s.Quiet 12 → s.Answered 6 rest →
      waitUnits events = 4 * s.build.eDelayUnits + 2 * s.build.ePulseUnits ∧ waitMillis events = 0) ∧
    (acceptedIn i = some s.phase → s.busy = false → s.Quiet (operationTrace i s).length →
      s.Answered (writesOf (operationTrace i s)).length rest →
      waitUnits events = bytesSent i * (4 * s.build.eDelayUnits + 2 * s.build.ePulseUnits) ∧
      waitMillis events = millisWaited s.build i)

/-! ## What the display makes of it -/

/-- `lcd_view` of the write trace of SENDBYTE(value, mode) is the one byte, in its mode (R70). -/
def Obligations.LcdViewOfSentByte : Prop :=
  ∀ (i : Instr) (m : Mode) (v : Byte) (s t : State) (events : List Event) (rest : List Answer),
    sentByte i = some (m, v) → s.Quiet 12 → s.Answered 6 rest →
    exec i s = .next t → t.trace = s.trace ++ events → lcdView (writesOf events) = [(m, v)]

/-- The toggle writes alone, the second and third of each nibble, show the display the same byte (R137; 90_conflicts.md C1). -/
def Obligations.LcdViewOfToggleWrites : Prop :=
  ∀ (i : Instr) (m : Mode) (v : Byte) (s t : State) (events : List Event) (rest : List Answer),
    sentByte i = some (m, v) → s.Quiet 12 → s.Answered 6 rest →
    exec i s = .next t → t.trace = s.trace ++ events →
    (writesOf events).length = 6 ∧ (toggleWrites (writesOf events)).length = 4 ∧
      lcdView (toggleWrites (writesOf events)) = [(m, v)]

/-- `lcd_view` of a PRINT: the address byte, if the line has one, and the characters; of CONSTRUCT: the six bytes of INIT (R70, R262). -/
def Obligations.LcdViewOfOperation : Prop :=
  ∀ (i : Instr) (s t : State) (events : List Event) (rest : List Answer),
    acceptedIn i = some s.phase → s.busy = false → s.Quiet (operationTrace i s).length →
    s.Answered (writesOf (operationTrace i s)).length rest →
    exec i s = .next t → t.trace = s.trace ++ events →
    lcdView (writesOf events) = bytesShown i

/-- The display follows CLEAR and PRINT, on a display in step and given its time, every write answered Ok and no reset inside (R38, R262): after
CLEAR its cursor is home and it is busy; after PRINT on line 1 or 2 the cursor stands as many data bytes after the line's address byte as the text
has, and on an invalid line as many after where it was (R172). The symbolic cursor, the busy time and a
display that keeps its power are the model's (logs 21, 22 and 33). -/
def Obligations.DisplayFollowsOperations : Prop :=
  ∀ (s : State) (text : List Byte) (line : BitVec 8) (rest : List Answer),
    s.DisplayReady → s.phase = .ready → s.busy = false →
    (s.Quiet 12 → s.Answered 6 rest →
      ∃ t, exec .clear s = .next t ∧ t.sync = .inStep ∧ t.lines.getLsbD 2 = false ∧
        t.device = { half := none, cursor := .home 0, busy := true }) ∧
    (line = 1#8 ∨ line = 2#8 → s.Quiet (12 * (1 + text.length)) → s.Answered (6 * (1 + text.length)) rest →
      ∃ t, exec (.print text line) s = .next t ∧ t.sync = .inStep ∧ t.lines.getLsbD 2 = false ∧
        t.device = { half := none, cursor := .line (if line = 1#8 then 0x80 else 0xC0) text.length, busy := false }) ∧
    (line ≠ 1#8 → line ≠ 2#8 → s.Quiet (1 + 12 * text.length) → s.Answered (6 * text.length) rest →
      ∃ t, exec (.print text line) s = .next t ∧ t.sync = .inStep ∧ t.lines.getLsbD 2 = false ∧
        t.device = { half := none, cursor := cursorOn text.length s.device.cursor, busy := s.device.busy && text.isEmpty })

/-- A successful CONSTRUCT after a reset leaves the display in step, cleared, with the cursor home and busy at the clear (R242, R247, R262 premise
e; the model's reading, log 24); a display that is in step it keeps in step, its power-up wait outlasting a clear before it (log 22), and its power
never lost (log 33). -/
def Obligations.ConstructBringsDisplayInStep : Prop :=
  ∀ (s : State) (width height : BitVec 8) (backlight : Bool) (rest : List Answer),
    s.sync = .awaiting ∨
      (s.sync = .inStep ∧ s.device.half = none ∧ s.lines.getLsbD 2 = false ∧ s.build.Legal) →
    s.phase = .uninitialized → s.busy = false → s.Quiet 73 → s.Answered 36 rest →
    ∃ t, exec (.construct width height backlight) s = .next t ∧ t.sync = .inStep ∧ t.lines.getLsbD 2 = false ∧
      t.device = { half := none, cursor := .home 0, busy := true }

/-- What is known of the display comes back only by a successful CONSTRUCT after a reset (U2). -/
def Obligations.DisplayKnownOnlyAfterConstruct : Prop :=
  ∀ s t : State, step s = .next t → s.sync ≠ .inStep → t.sync = .inStep →
    s.sync = .awaiting ∧ t.phase = .ready ∧ t.status = 0b000 ∧ t.results = s.results ++ [0b000]

/-! ## Rules about the whole machine -/

/-- `phase` (R21): Uninitialized after reset; Ready at one place only, the successful completion of CONSTRUCT, as an operation of the command port
and at a step, which then reports success; back only by the hardware reset; 0 and 1 on the port. -/
def Obligations.PhaseTransitions : Prop :=
  State.reset.phase = .uninitialized ∧
  (∀ (i : Instr) (s t : State), exec i s = .next t → s.phase = .uninitialized → t.phase = .ready →
    (∃ width height backlight, i = .construct width height backlight) ∧ t.status = 0b000 ∧ t.busy = false) ∧
  (∀ s t : State, step s = .next t → s.phase = .uninitialized → t.phase = .ready →
    t.results = s.results ++ [0b000] ∧ t.busy = false) ∧
  (∀ s t : State, step s = .next t → s.phase = .ready → NoReset s t → t.phase = .ready) ∧
  (∀ s t : State, step s = .next t → s.phase = .ready → t.phase = .uninitialized → t.rst.length < s.rst.length) ∧
  (∀ s : State, s.phaseBit = match s.phase with
    | .uninitialized => 0
    | .ready => 1)

/-- In Ready the configuration registers never change until reset, and PRINT and CLEAR write no architectural state but busy and status
(R41). -/
def Obligations.ConfigurationImmutable : Prop :=
  (∀ s t : State, step s = .next t → s.phase = .ready → NoReset s t → t.cfg = s.cfg) ∧
  (∀ (s t : State) (text : List Byte) (line : BitVec 8), exec (.print text line) s = .next t ∨ exec .clear s = .next t →
    NoReset s t → t.cfg = s.cfg ∧ t.phase = s.phase)

/-- No step changes the build's parameters (R7, R33). -/
def Obligations.BuildNeverChanges : Prop :=
  ∀ s t : State, step s = .next t → t.build = s.build

/-- No step writes to any address but that of the expander (R53, R193). -/
def Obligations.OnlyTheExpanderIsWritten : Prop :=
  ∀ (s t : State) (a : Nat), step s = .next t → a ≠ s.build.i2cAddr.toNat → t.bus.read a = s.bus.read a

/-- The trace and the reported statuses only grow (R10); and without a reset the status is held until the next completion or refusal: a step
either leaves status and results as they were or adds to the results exactly the status it sets (R30). -/
def Obligations.RecordsOnlyGrow : Prop :=
  ∀ s t : State, step s = .next t → s.trace <+: t.trace ∧ s.results <+: t.results ∧
    (NoReset s t → (t.status = s.status ∧ t.results = s.results) ∨ t.results = s.results ++ [t.status])

/-- Every instruction of the table answers a next state, in every state: none faults and none is refused. -/
def Obligations.EveryInstructionAnswers : Prop :=
  ∀ (i : Instr) (s : State), ∃ t, exec i s = .next t

/-! ## Frames -/

/-- What the internal operations (SENDBYTE, the eight command bytes, the three packets) leave unchanged, whatever the transport answers, with
no reset inside: phase, configuration, operand latch, command port, build and every byte of BUS but the expander's; busy, status and
reported statuses too, unless a bus error was reported, and what is known of the display, unless it is lost at a fault of its own. -/
def Obligations.InternalFrame : Prop :=
  ∀ (i : Instr) (s t : State), isCommand i = false → exec i s = .next t → NoReset s t →
    t.phase = s.phase ∧ t.cfg = s.cfg ∧ t.latch = s.latch ∧ t.rx = s.rx ∧ t.cmd = s.cmd ∧ t.build = s.build ∧
    (∀ a, a ≠ s.build.i2cAddr.toNat → t.bus.read a = s.bus.read a) ∧
    (t.results = s.results → t.busy = s.busy ∧ t.status = s.status ∧ t.seq.op = s.seq.op ∧
      (t.sync = s.sync ∨ t.sync = .lost))

/-- What the public operations leave unchanged, whatever the transport answers, with no reset inside: command port, build and every byte of
BUS but the expander's; the configuration, but for CONSTRUCT's; the operand latch, but for PRINT's; the phase, but for CONSTRUCT's; and the
status, unless the operation ended and reports it. -/
def Obligations.CommandFrame : Prop :=
  ∀ (i : Instr) (s t : State), isCommand i = true → exec i s = .next t → NoReset s t →
    t.rx = s.rx ∧ t.cmd = s.cmd ∧ t.build = s.build ∧
    (∀ a, a ≠ s.build.i2cAddr.toNat → t.bus.read a = s.bus.read a) ∧
    ((∀ w h b, i ≠ .construct w h b) → t.cfg = s.cfg ∧ t.phase = s.phase) ∧
    ((∀ text line, i ≠ .print text line) → t.latch = s.latch) ∧
    ((t.status = s.status ∧ t.results = s.results) ∨ t.results = s.results ++ [t.status]) ∧
    (acceptedIn i = none → t.trace = s.trace ∧ t.bus = s.bus ∧ t.device = s.device ∧ t.seq = s.seq ∧ t.work = s.work ∧
      t.answers = s.answers ∧ t.busy = s.busy)

/-! ## Reset and invariants -/

/-- The state after reset (R39), in the values the spec gives. -/
def Obligations.ResetValues : Prop :=
  State.reset.phase = .uninitialized ∧ State.reset.busy = false ∧ State.reset.status = 0b000 ∧
  State.reset.seq.op = .idle ∧ State.reset.tmr = 0 ∧ State.reset.wr = none ∧
  State.reset.build.i2cAddr = 0x27 ∧ State.reset.build.i2cHz = 400000 ∧ State.reset.build.eDelayUnits = 1 ∧
  State.reset.build.ePulseUnits = 1 ∧ State.reset.build.powerUpMs = 50

/-- The invariant holds after reset. -/
def Obligations.ResetMeetsInvariant : Prop := State.reset.Inv

/-- Every step keeps the invariant, from every state that meets it. -/
def Obligations.StepKeepsInvariant : Prop :=
  ∀ s t : State, s.Inv → step s = .next t → t.Inv

/-- Events queued and taken one at a time by the step come to the same as events run at once: `n` steps on a queue of `n` events reach the state
that the operation reaches in one go, the last of them completing it (R26, R63; the queue and the size of a step are the model's, logs 1 and
14). -/
def Obligations.QueuedEventsEqualRunAtOnce : Prop :=
  ∀ (s : State) (ps : List Prim) (rest : List Answer),
    s.busy = true → s.work = [] → ps ≠ [] → ps.all primLegal = true → s.Quiet ps.length →
    s.Answered (ps.countP primIsWrite) rest →
    Host.Core.run Sys2Proof.core ps.length { s with work := ps.map Item.prim } = (runPrims ps s).finish

/-! ## The host's resets, and operations held up -/

/-- The host may reset at any time (R261), between the transfers of the command port too: among the text beats of a PRINT, the word and the beats
taken are dropped and the rest stays offered; after a refused CONSTRUCT, the refusal is reported first (resets are counted as log 4 says). -/
def Obligations.ResetBetweenTransfers : Prop :=
  (∀ (s : State) (w : BitVec 32) (beats : List (BitVec 32)) (k : Nat) (later : List Nat),
    s.work = [] → s.busy = false → s.wr = none → s.rx = none → s.cmd = w :: beats → s.rst = k :: later →
    0 < k → k ≤ textBeats w → k ≤ s.cmd.length →
    ∃ t, Host.Core.run Sys2Proof.core 2 s = .next t ∧ t.phase = .uninitialized ∧ t.rx = none ∧ t.cmd = s.cmd.drop k ∧
      t.rst = later ∧ t.status = 0b000 ∧ t.trace = s.trace ∧ t.results = s.results ∧ t.bus = s.bus ∧ t.device = s.device) ∧
  (∀ (s : State) (w : BitVec 32) (rest : List (BitVec 32)) (later : List Nat),
    s.work = [] → s.busy = false → s.wr = none → s.rx = none → s.phase = .ready → w.extractLsb' 30 2 = 0b00 →
    s.cmd = w :: rest → s.rst = 1 :: later →
    ∃ t, Host.Core.run Sys2Proof.core 2 s = .next t ∧ t.phase = .uninitialized ∧ t.cmd = rest ∧ t.rst = later ∧
      t.results = s.results ++ [0b100] ∧ t.status = 0b000 ∧ t.trace = s.trace ∧ t.bus = s.bus)

/-- The step always answers a next state from a state that meets the invariant: the refusal `undecodable` is never raised there (log 26). -/
def Obligations.StepAnswers : Prop :=
  ∀ s : State, s.Inv → ∃ t, step s = .next t

/-- An operation held up by a write without an answer goes on as if the answers had been there (R63, R194): as many steps as events are left in its
queue, on whatever answers come, reach what the operation reaches with those answers in one go (the queue and the step are the model's, logs 1
and 14). -/
def Obligations.HeldOperationGoesOn : Prop :=
  ∀ (i : Instr) (s t : State) (k : Nat) (more : List Answer),
    acceptedIn i = some s.phase → s.busy = false → s.work = [] → s.rx = none → s.cmd = [] →
    s.Quiet (operationTrace i s).length → k < (writesOf (operationTrace i s)).length → s.Answered k [] →
    exec i s = .next t →
    Host.Core.run Sys2Proof.core t.work.length { t with answers := more } = exec i { s with answers := s.answers ++ more }

/-- A display that is still at a clear command when the next byte reaches it is lost, and the block does not notice: its trace is as ever (R247,
U7; the fault is the model's reading, log 22). -/
def Obligations.DisplayLostWithoutTime : Prop :=
  ∀ (i : Instr) (s : State) (rest : List Answer),
    s.sync = .inStep → s.device.busy = true → s.settled.head? ≠ some true → s.lines.getLsbD 2 = false →
    s.phase = .ready → acceptedIn i = some .ready → bytesSent i ≠ 0 → s.busy = false →
    s.Quiet (operationTrace i s).length → s.Answered (writesOf (operationTrace i s)).length rest →
    ∃ t, exec i s = .next t ∧ t.sync = .lost ∧ t.trace = s.trace ++ operationTrace i s
end

