-- ==== Sys2Proof/Laws/Memory.lean ====
section
/-!
SUPPORT. The laws of the BUS memory: what a read gives after a write, and that every operation keeps the canonical form.
-/

namespace Sys2Proof.Machine

theorem Memory.read_erase (m : Memory) (a b : Nat) :
    (Memory.erase m a).read b = if a = b then Memory.unlisted else m.read b := by
  induction m with
  | nil => simp [Memory.erase, Memory.read]
  | cons c m ih =>
    obtain ⟨k, v⟩ := c
    simp only [Memory.erase]
    split
    · subst k; rw [ih]; split <;> simp_all [Memory.read]
    · simp only [Memory.read, ih]; split <;> split <;> simp_all

theorem Memory.read_put (m : Memory) (a b : Nat) (v : Byte) :
    (Memory.put m a v).read b = if a = b then v else m.read b := by
  induction m with
  | nil => simp [Memory.put, Memory.read]
  | cons c m ih =>
    obtain ⟨k, w⟩ := c
    simp only [Memory.put]
    split
    · simp [Memory.read]
    · split
      · subst k; simp only [Memory.read]; split <;> simp_all
      · simp only [Memory.read, ih]; split <;> split <;> simp_all

/-- A read after a write: the byte written at its address, the old byte elsewhere. -/
theorem Memory.read_write (m : Memory) (a b : Nat) (v : Byte) :
    (m.write a v).read b = if a = b then v else m.read b := by
  unfold Memory.write
  split
  · next h => rw [read_erase, h]
  · rw [read_put]

@[simp] theorem Memory.read_write_same (m : Memory) (a : Nat) (v : Byte) : (m.write a v).read a = v := by
  simp [read_write]

theorem Memory.read_write_other (m : Memory) {a b : Nat} (h : a ≠ b) (v : Byte) : (m.write a v).read b = m.read b := by
  simp [read_write, h]

theorem Memory.all_erase (m : Memory) (a : Nat) (p : Host.Cell → Bool) (h : m.all p = true) :
    (Memory.erase m a).all p = true := by
  induction m with
  | nil => rfl
  | cons c m ih =>
    obtain ⟨k, v⟩ := c
    simp only [List.all_cons, Bool.and_eq_true] at h
    simp only [Memory.erase]
    split
    · exact ih h.2
    · simp only [List.all_cons, Bool.and_eq_true]; exact ⟨h.1, ih h.2⟩

theorem Memory.all_put (m : Memory) (a : Nat) (v : Byte) (p : Host.Cell → Bool) (h : m.all p = true)
    (hp : p (a, v) = true) : (Memory.put m a v).all p = true := by
  induction m with
  | nil => simp [Memory.put, hp]
  | cons c m ih =>
    obtain ⟨k, w⟩ := c
    simp only [List.all_cons, Bool.and_eq_true] at h
    simp only [Memory.put]
    split
    · simp only [List.all_cons, hp, h.1, h.2, Bool.and_self]
    · split
      · simp only [List.all_cons, hp, h.2, Bool.and_self]
      · simp only [List.all_cons, h.1, ih h.2, Bool.and_self]

theorem Memory.wf_erase (m : Memory) (a : Nat) (h : m.wf = true) : (Memory.erase m a).wf = true := by
  induction m with
  | nil => rfl
  | cons c m ih =>
    obtain ⟨k, v⟩ := c
    simp only [Memory.wf, Bool.and_eq_true] at h
    simp only [Memory.erase]
    split
    · exact ih h.2
    · simp only [Memory.wf, Bool.and_eq_true]
      exact ⟨⟨h.1.1, all_erase m a _ h.1.2⟩, ih h.2⟩

theorem Memory.wf_put (m : Memory) (a : Nat) (v : Byte) (hv : v ≠ Memory.unlisted) (h : m.wf = true) :
    (Memory.put m a v).wf = true := by
  induction m with
  | nil => simp [Memory.put, Memory.wf, hv]
  | cons c m ih =>
    obtain ⟨k, w⟩ := c
    simp only [Memory.wf, Bool.and_eq_true] at h
    simp only [Memory.put]
    split
    · next hak =>
      simp only [Memory.wf, Bool.and_eq_true, List.all_cons, decide_eq_true_eq]
      refine ⟨⟨hv, hak, ?_⟩, ⟨⟨by simpa using h.1.1, h.1.2⟩, h.2⟩⟩
      have := h.1.2
      simp only [List.all_eq_true, decide_eq_true_eq] at this ⊢
      intro c hc
      exact Nat.lt_trans hak (this c hc)
    · split
      · next heq =>
        subst k
        simp only [Memory.wf, Bool.and_eq_true]
        exact ⟨⟨by simpa using hv, h.1.2⟩, h.2⟩
      · next h1 h2 =>
        simp only [Memory.wf, Bool.and_eq_true]
        exact ⟨⟨h.1.1, all_put m a v _ h.1.2 (by simp; omega)⟩, ih h.2⟩

/-- Every write keeps the canonical form. -/
theorem Memory.wf_write (m : Memory) (a : Nat) (v : Byte) (h : m.wf = true) : (m.write a v).wf = true := by
  unfold Memory.write
  split
  · exact wf_erase m a h
  · next hv => exact wf_put m a v hv h

end Sys2Proof.Machine
end

