-- ==== Sys2Proof/Laws/State.lean ====
section
/-!
SUPPORT. Each shared operation field by field, true by definition, so that no later proof unfolds a record update.
-/

namespace Sys2Proof.Machine

/-! ### State.advance -/

@[simp] theorem State.advance_build (s : State) : s.advance.build = s.build := rfl
@[simp] theorem State.advance_phase (s : State) : s.advance.phase = s.phase := rfl
@[simp] theorem State.advance_cfg (s : State) : s.advance.cfg = s.cfg := rfl
@[simp] theorem State.advance_busy (s : State) : s.advance.busy = s.busy := rfl
@[simp] theorem State.advance_status (s : State) : s.advance.status = s.status := rfl
@[simp] theorem State.advance_seq (s : State) : s.advance.seq = if s.seq.op = .idle then s.seq else seqNext s.seq := rfl
@[simp] theorem State.advance_tmr (s : State) : s.advance.tmr = s.tmr := rfl
@[simp] theorem State.advance_latch (s : State) : s.advance.latch = s.latch := rfl
@[simp] theorem State.advance_work (s : State) : s.advance.work = s.work := rfl
@[simp] theorem State.advance_wr (s : State) : s.advance.wr = s.wr := rfl
@[simp] theorem State.advance_rx (s : State) : s.advance.rx = s.rx := rfl
@[simp] theorem State.advance_cmd (s : State) : s.advance.cmd = s.cmd := rfl
@[simp] theorem State.advance_answers (s : State) : s.advance.answers = s.answers := rfl
@[simp] theorem State.advance_rst (s : State) : s.advance.rst = s.rst := rfl
@[simp] theorem State.advance_settled (s : State) : s.advance.settled = s.settled := rfl
@[simp] theorem State.advance_bus (s : State) : s.advance.bus = s.bus := rfl
@[simp] theorem State.advance_device (s : State) : s.advance.device = s.device := rfl
@[simp] theorem State.advance_sync (s : State) : s.advance.sync = s.sync := rfl
@[simp] theorem State.advance_draws (s : State) : s.advance.draws = s.draws := rfl
@[simp] theorem State.advance_trace (s : State) : s.advance.trace = s.trace := rfl
@[simp] theorem State.advance_results (s : State) : s.advance.results = s.results := rfl

/-! ### State.emit -/

@[simp] theorem State.emit_build (e : Event) (s : State) : (s.emit e).build = s.build := rfl
@[simp] theorem State.emit_phase (e : Event) (s : State) : (s.emit e).phase = s.phase := rfl
@[simp] theorem State.emit_cfg (e : Event) (s : State) : (s.emit e).cfg = s.cfg := rfl
@[simp] theorem State.emit_busy (e : Event) (s : State) : (s.emit e).busy = s.busy := rfl
@[simp] theorem State.emit_status (e : Event) (s : State) : (s.emit e).status = s.status := rfl
@[simp] theorem State.emit_seq (e : Event) (s : State) : (s.emit e).seq = s.seq := rfl
@[simp] theorem State.emit_tmr (e : Event) (s : State) : (s.emit e).tmr = s.tmr := rfl
@[simp] theorem State.emit_latch (e : Event) (s : State) : (s.emit e).latch = s.latch := rfl
@[simp] theorem State.emit_work (e : Event) (s : State) : (s.emit e).work = s.work := rfl
@[simp] theorem State.emit_wr (e : Event) (s : State) : (s.emit e).wr = s.wr := rfl
@[simp] theorem State.emit_rx (e : Event) (s : State) : (s.emit e).rx = s.rx := rfl
@[simp] theorem State.emit_cmd (e : Event) (s : State) : (s.emit e).cmd = s.cmd := rfl
@[simp] theorem State.emit_answers (e : Event) (s : State) : (s.emit e).answers = s.answers := rfl
@[simp] theorem State.emit_rst (e : Event) (s : State) : (s.emit e).rst = rstAfter 1 s.rst := rfl
@[simp] theorem State.emit_settled (e : Event) (s : State) : (s.emit e).settled = s.settled := rfl
@[simp] theorem State.emit_bus (e : Event) (s : State) : (s.emit e).bus = s.bus := rfl
@[simp] theorem State.emit_device (e : Event) (s : State) : (s.emit e).device = s.device := rfl
@[simp] theorem State.emit_sync (e : Event) (s : State) : (s.emit e).sync = s.sync := rfl
@[simp] theorem State.emit_draws (e : Event) (s : State) : (s.emit e).draws = s.draws := rfl
@[simp] theorem State.emit_trace (e : Event) (s : State) : (s.emit e).trace = s.trace ++ [e] := rfl
@[simp] theorem State.emit_results (e : Event) (s : State) : (s.emit e).results = s.results := rfl

/-! ### State.done -/

@[simp] theorem State.done_build (sw : BitVec 3) (s : State) : (s.done sw).build = s.build := rfl
@[simp] theorem State.done_phase (sw : BitVec 3) (s : State) : (s.done sw).phase = s.phase := rfl
@[simp] theorem State.done_cfg (sw : BitVec 3) (s : State) : (s.done sw).cfg = s.cfg := rfl
@[simp] theorem State.done_busy (sw : BitVec 3) (s : State) : (s.done sw).busy = false := rfl
@[simp] theorem State.done_status (sw : BitVec 3) (s : State) : (s.done sw).status = sw := rfl
@[simp] theorem State.done_seq (sw : BitVec 3) (s : State) : (s.done sw).seq = Seq.idle := rfl
@[simp] theorem State.done_tmr (sw : BitVec 3) (s : State) : (s.done sw).tmr = s.tmr := rfl
@[simp] theorem State.done_latch (sw : BitVec 3) (s : State) : (s.done sw).latch = s.latch := rfl
@[simp] theorem State.done_work (sw : BitVec 3) (s : State) : (s.done sw).work = s.work := rfl
@[simp] theorem State.done_wr (sw : BitVec 3) (s : State) : (s.done sw).wr = s.wr := rfl
@[simp] theorem State.done_rx (sw : BitVec 3) (s : State) : (s.done sw).rx = s.rx := rfl
@[simp] theorem State.done_cmd (sw : BitVec 3) (s : State) : (s.done sw).cmd = s.cmd := rfl
@[simp] theorem State.done_answers (sw : BitVec 3) (s : State) : (s.done sw).answers = s.answers := rfl
@[simp] theorem State.done_rst (sw : BitVec 3) (s : State) : (s.done sw).rst = s.rst := rfl
@[simp] theorem State.done_settled (sw : BitVec 3) (s : State) : (s.done sw).settled = s.settled := rfl
@[simp] theorem State.done_bus (sw : BitVec 3) (s : State) : (s.done sw).bus = s.bus := rfl
@[simp] theorem State.done_device (sw : BitVec 3) (s : State) : (s.done sw).device = s.device := rfl
@[simp] theorem State.done_sync (sw : BitVec 3) (s : State) : (s.done sw).sync = s.sync := rfl
@[simp] theorem State.done_draws (sw : BitVec 3) (s : State) : (s.done sw).draws = s.draws := rfl
@[simp] theorem State.done_trace (sw : BitVec 3) (s : State) : (s.done sw).trace = s.trace := rfl
@[simp] theorem State.done_results (sw : BitVec 3) (s : State) : (s.done sw).results = s.results ++ [sw] := rfl

/-! ### State.refuse -/

@[simp] theorem State.refuse_build (s : State) : s.refuse.build = s.build := rfl
@[simp] theorem State.refuse_phase (s : State) : s.refuse.phase = s.phase := rfl
@[simp] theorem State.refuse_cfg (s : State) : s.refuse.cfg = s.cfg := rfl
@[simp] theorem State.refuse_busy (s : State) : s.refuse.busy = s.busy := rfl
@[simp] theorem State.refuse_status (s : State) : s.refuse.status = statusRefused := rfl
@[simp] theorem State.refuse_seq (s : State) : s.refuse.seq = s.seq := rfl
@[simp] theorem State.refuse_tmr (s : State) : s.refuse.tmr = s.tmr := rfl
@[simp] theorem State.refuse_latch (s : State) : s.refuse.latch = s.latch := rfl
@[simp] theorem State.refuse_work (s : State) : s.refuse.work = s.work := rfl
@[simp] theorem State.refuse_wr (s : State) : s.refuse.wr = s.wr := rfl
@[simp] theorem State.refuse_rx (s : State) : s.refuse.rx = s.rx := rfl
@[simp] theorem State.refuse_cmd (s : State) : s.refuse.cmd = s.cmd := rfl
@[simp] theorem State.refuse_answers (s : State) : s.refuse.answers = s.answers := rfl
@[simp] theorem State.refuse_rst (s : State) : s.refuse.rst = s.rst := rfl
@[simp] theorem State.refuse_settled (s : State) : s.refuse.settled = s.settled := rfl
@[simp] theorem State.refuse_bus (s : State) : s.refuse.bus = s.bus := rfl
@[simp] theorem State.refuse_device (s : State) : s.refuse.device = s.device := rfl
@[simp] theorem State.refuse_sync (s : State) : s.refuse.sync = s.sync := rfl
@[simp] theorem State.refuse_draws (s : State) : s.refuse.draws = s.draws := rfl
@[simp] theorem State.refuse_trace (s : State) : s.refuse.trace = s.trace := rfl
@[simp] theorem State.refuse_results (s : State) : s.refuse.results = s.results ++ [statusRefused] := rfl

/-! ### State.loadTimer -/

@[simp] theorem State.loadTimer_build (w : Wait) (s : State) : (s.loadTimer w).build = s.build := rfl
@[simp] theorem State.loadTimer_phase (w : Wait) (s : State) : (s.loadTimer w).phase = s.phase := rfl
@[simp] theorem State.loadTimer_cfg (w : Wait) (s : State) : (s.loadTimer w).cfg = s.cfg := rfl
@[simp] theorem State.loadTimer_busy (w : Wait) (s : State) : (s.loadTimer w).busy = s.busy := rfl
@[simp] theorem State.loadTimer_status (w : Wait) (s : State) : (s.loadTimer w).status = s.status := rfl
@[simp] theorem State.loadTimer_seq (w : Wait) (s : State) : (s.loadTimer w).seq = s.seq := rfl
@[simp] theorem State.loadTimer_tmr (w : Wait) (s : State) : (s.loadTimer w).tmr = waitCycles s.build w := rfl
@[simp] theorem State.loadTimer_latch (w : Wait) (s : State) : (s.loadTimer w).latch = s.latch := rfl
@[simp] theorem State.loadTimer_work (w : Wait) (s : State) : (s.loadTimer w).work = s.work := rfl
@[simp] theorem State.loadTimer_wr (w : Wait) (s : State) : (s.loadTimer w).wr = s.wr := rfl
@[simp] theorem State.loadTimer_rx (w : Wait) (s : State) : (s.loadTimer w).rx = s.rx := rfl
@[simp] theorem State.loadTimer_cmd (w : Wait) (s : State) : (s.loadTimer w).cmd = s.cmd := rfl
@[simp] theorem State.loadTimer_answers (w : Wait) (s : State) : (s.loadTimer w).answers = s.answers := rfl
@[simp] theorem State.loadTimer_rst (w : Wait) (s : State) : (s.loadTimer w).rst = s.rst := rfl
@[simp] theorem State.loadTimer_settled (w : Wait) (s : State) : (s.loadTimer w).settled = s.settled := rfl
@[simp] theorem State.loadTimer_bus (w : Wait) (s : State) : (s.loadTimer w).bus = s.bus := rfl
@[simp] theorem State.loadTimer_device (w : Wait) (s : State) : (s.loadTimer w).device = s.device := rfl
@[simp] theorem State.loadTimer_sync (w : Wait) (s : State) : (s.loadTimer w).sync = s.sync := rfl
@[simp] theorem State.loadTimer_draws (w : Wait) (s : State) : (s.loadTimer w).draws = s.draws := rfl
@[simp] theorem State.loadTimer_trace (w : Wait) (s : State) : (s.loadTimer w).trace = s.trace := rfl
@[simp] theorem State.loadTimer_results (w : Wait) (s : State) : (s.loadTimer w).results = s.results := rfl

/-! ### State.timerElapsed -/

@[simp] theorem State.timerElapsed_build (s : State) : s.timerElapsed.build = s.build := rfl
@[simp] theorem State.timerElapsed_phase (s : State) : s.timerElapsed.phase = s.phase := rfl
@[simp] theorem State.timerElapsed_cfg (s : State) : s.timerElapsed.cfg = s.cfg := rfl
@[simp] theorem State.timerElapsed_busy (s : State) : s.timerElapsed.busy = s.busy := rfl
@[simp] theorem State.timerElapsed_status (s : State) : s.timerElapsed.status = s.status := rfl
@[simp] theorem State.timerElapsed_seq (s : State) : s.timerElapsed.seq = s.seq := rfl
@[simp] theorem State.timerElapsed_tmr (s : State) : s.timerElapsed.tmr = 0 := rfl
@[simp] theorem State.timerElapsed_latch (s : State) : s.timerElapsed.latch = s.latch := rfl
@[simp] theorem State.timerElapsed_work (s : State) : s.timerElapsed.work = s.work := rfl
@[simp] theorem State.timerElapsed_wr (s : State) : s.timerElapsed.wr = s.wr := rfl
@[simp] theorem State.timerElapsed_rx (s : State) : s.timerElapsed.rx = s.rx := rfl
@[simp] theorem State.timerElapsed_cmd (s : State) : s.timerElapsed.cmd = s.cmd := rfl
@[simp] theorem State.timerElapsed_answers (s : State) : s.timerElapsed.answers = s.answers := rfl
@[simp] theorem State.timerElapsed_rst (s : State) : s.timerElapsed.rst = s.rst := rfl
@[simp] theorem State.timerElapsed_settled (s : State) : s.timerElapsed.settled = s.settled := rfl
@[simp] theorem State.timerElapsed_bus (s : State) : s.timerElapsed.bus = s.bus := rfl
@[simp] theorem State.timerElapsed_device (s : State) : s.timerElapsed.device = s.device := rfl
@[simp] theorem State.timerElapsed_sync (s : State) : s.timerElapsed.sync = s.sync := rfl
@[simp] theorem State.timerElapsed_draws (s : State) : s.timerElapsed.draws = s.draws := rfl
@[simp] theorem State.timerElapsed_trace (s : State) : s.timerElapsed.trace = s.trace := rfl
@[simp] theorem State.timerElapsed_results (s : State) : s.timerElapsed.results = s.results := rfl

/-! ### State.accept -/

@[simp] theorem State.accept_build (op : Op) (s : State) : (s.accept op).build = s.build := rfl
@[simp] theorem State.accept_phase (op : Op) (s : State) : (s.accept op).phase = s.phase := rfl
@[simp] theorem State.accept_cfg (op : Op) (s : State) : (s.accept op).cfg = s.cfg := rfl
@[simp] theorem State.accept_busy (op : Op) (s : State) : (s.accept op).busy = true := rfl
@[simp] theorem State.accept_status (op : Op) (s : State) : (s.accept op).status = s.status := rfl
@[simp] theorem State.accept_seq (op : Op) (s : State) : (s.accept op).seq = seqStart op s.latch.line := rfl
@[simp] theorem State.accept_tmr (op : Op) (s : State) : (s.accept op).tmr = s.tmr := rfl
@[simp] theorem State.accept_latch (op : Op) (s : State) : (s.accept op).latch = s.latch := rfl
@[simp] theorem State.accept_work (op : Op) (s : State) : (s.accept op).work = s.work := rfl
@[simp] theorem State.accept_wr (op : Op) (s : State) : (s.accept op).wr = s.wr := rfl
@[simp] theorem State.accept_rx (op : Op) (s : State) : (s.accept op).rx = s.rx := rfl
@[simp] theorem State.accept_cmd (op : Op) (s : State) : (s.accept op).cmd = s.cmd := rfl
@[simp] theorem State.accept_answers (op : Op) (s : State) : (s.accept op).answers = s.answers := rfl
@[simp] theorem State.accept_rst (op : Op) (s : State) : (s.accept op).rst = s.rst := rfl
@[simp] theorem State.accept_settled (op : Op) (s : State) : (s.accept op).settled = s.settled := rfl
@[simp] theorem State.accept_bus (op : Op) (s : State) : (s.accept op).bus = s.bus := rfl
@[simp] theorem State.accept_device (op : Op) (s : State) : (s.accept op).device = s.device := rfl
@[simp] theorem State.accept_sync (op : Op) (s : State) : (s.accept op).sync = s.sync := rfl
@[simp] theorem State.accept_draws (op : Op) (s : State) : (s.accept op).draws = s.draws := rfl
@[simp] theorem State.accept_trace (op : Op) (s : State) : (s.accept op).trace = s.trace := rfl
@[simp] theorem State.accept_results (op : Op) (s : State) : (s.accept op).results = s.results := rfl

/-! ### State.deviceReady and State.drive: what they never change -/

@[simp] theorem State.deviceReady_build (s : State) : s.deviceReady.build = s.build := by
  unfold State.deviceReady; repeat' split
  all_goals rfl
@[simp] theorem State.deviceReady_phase (s : State) : s.deviceReady.phase = s.phase := by
  unfold State.deviceReady; repeat' split
  all_goals rfl
@[simp] theorem State.deviceReady_cfg (s : State) : s.deviceReady.cfg = s.cfg := by
  unfold State.deviceReady; repeat' split
  all_goals rfl
@[simp] theorem State.deviceReady_busy (s : State) : s.deviceReady.busy = s.busy := by
  unfold State.deviceReady; repeat' split
  all_goals rfl
@[simp] theorem State.deviceReady_status (s : State) : s.deviceReady.status = s.status := by
  unfold State.deviceReady; repeat' split
  all_goals rfl
@[simp] theorem State.deviceReady_seq (s : State) : s.deviceReady.seq = s.seq := by
  unfold State.deviceReady; repeat' split
  all_goals rfl
@[simp] theorem State.deviceReady_tmr (s : State) : s.deviceReady.tmr = s.tmr := by
  unfold State.deviceReady; repeat' split
  all_goals rfl
@[simp] theorem State.deviceReady_latch (s : State) : s.deviceReady.latch = s.latch := by
  unfold State.deviceReady; repeat' split
  all_goals rfl
@[simp] theorem State.deviceReady_work (s : State) : s.deviceReady.work = s.work := by
  unfold State.deviceReady; repeat' split
  all_goals rfl
@[simp] theorem State.deviceReady_wr (s : State) : s.deviceReady.wr = s.wr := by
  unfold State.deviceReady; repeat' split
  all_goals rfl
@[simp] theorem State.deviceReady_rx (s : State) : s.deviceReady.rx = s.rx := by
  unfold State.deviceReady; repeat' split
  all_goals rfl
@[simp] theorem State.deviceReady_cmd (s : State) : s.deviceReady.cmd = s.cmd := by
  unfold State.deviceReady; repeat' split
  all_goals rfl
@[simp] theorem State.deviceReady_answers (s : State) : s.deviceReady.answers = s.answers := by
  unfold State.deviceReady; repeat' split
  all_goals rfl
@[simp] theorem State.deviceReady_rst (s : State) : s.deviceReady.rst = s.rst := by
  unfold State.deviceReady; repeat' split
  all_goals rfl
@[simp] theorem State.deviceReady_bus (s : State) : s.deviceReady.bus = s.bus := by
  unfold State.deviceReady; repeat' split
  all_goals rfl
@[simp] theorem State.deviceReady_draws (s : State) : s.deviceReady.draws = s.draws := by
  unfold State.deviceReady; repeat' split
  all_goals rfl
@[simp] theorem State.deviceReady_trace (s : State) : s.deviceReady.trace = s.trace := by
  unfold State.deviceReady; repeat' split
  all_goals rfl
@[simp] theorem State.deviceReady_results (s : State) : s.deviceReady.results = s.results := by
  unfold State.deviceReady; repeat' split
  all_goals rfl
@[simp] theorem State.drive_build (b : Byte) (s : State) : (s.drive b).build = s.build := by
  unfold State.drive; split <;> simp
@[simp] theorem State.drive_phase (b : Byte) (s : State) : (s.drive b).phase = s.phase := by
  unfold State.drive; split <;> simp
@[simp] theorem State.drive_cfg (b : Byte) (s : State) : (s.drive b).cfg = s.cfg := by
  unfold State.drive; split <;> simp
@[simp] theorem State.drive_busy (b : Byte) (s : State) : (s.drive b).busy = s.busy := by
  unfold State.drive; split <;> simp
@[simp] theorem State.drive_status (b : Byte) (s : State) : (s.drive b).status = s.status := by
  unfold State.drive; split <;> simp
@[simp] theorem State.drive_seq (b : Byte) (s : State) : (s.drive b).seq = s.seq := by
  unfold State.drive; split <;> simp
@[simp] theorem State.drive_tmr (b : Byte) (s : State) : (s.drive b).tmr = s.tmr := by
  unfold State.drive; split <;> simp
@[simp] theorem State.drive_latch (b : Byte) (s : State) : (s.drive b).latch = s.latch := by
  unfold State.drive; split <;> simp
@[simp] theorem State.drive_work (b : Byte) (s : State) : (s.drive b).work = s.work := by
  unfold State.drive; split <;> simp
@[simp] theorem State.drive_wr (b : Byte) (s : State) : (s.drive b).wr = s.wr := by
  unfold State.drive; split <;> simp
@[simp] theorem State.drive_rx (b : Byte) (s : State) : (s.drive b).rx = s.rx := by
  unfold State.drive; split <;> simp
@[simp] theorem State.drive_cmd (b : Byte) (s : State) : (s.drive b).cmd = s.cmd := by
  unfold State.drive; split <;> simp
@[simp] theorem State.drive_answers (b : Byte) (s : State) : (s.drive b).answers = s.answers := by
  unfold State.drive; split <;> simp
@[simp] theorem State.drive_rst (b : Byte) (s : State) : (s.drive b).rst = s.rst := by
  unfold State.drive; split <;> simp
@[simp] theorem State.drive_bus (b : Byte) (s : State) : (s.drive b).bus = s.bus := by
  unfold State.drive; split <;> simp
@[simp] theorem State.drive_draws (b : Byte) (s : State) : (s.drive b).draws = s.draws := by
  unfold State.drive; split <;> simp
@[simp] theorem State.drive_trace (b : Byte) (s : State) : (s.drive b).trace = s.trace := by
  unfold State.drive; split <;> simp
@[simp] theorem State.drive_results (b : Byte) (s : State) : (s.drive b).results = s.results := by
  unfold State.drive; split <;> simp

/-! ### State.land -/

@[simp] theorem State.land_build (b : Byte) (s : State) : (s.land b).build = s.build := State.drive_build b s
@[simp] theorem State.land_phase (b : Byte) (s : State) : (s.land b).phase = s.phase := State.drive_phase b s
@[simp] theorem State.land_cfg (b : Byte) (s : State) : (s.land b).cfg = s.cfg := State.drive_cfg b s
@[simp] theorem State.land_busy (b : Byte) (s : State) : (s.land b).busy = s.busy := State.drive_busy b s
@[simp] theorem State.land_status (b : Byte) (s : State) : (s.land b).status = s.status := State.drive_status b s
@[simp] theorem State.land_seq (b : Byte) (s : State) : (s.land b).seq = s.seq := State.drive_seq b s
@[simp] theorem State.land_tmr (b : Byte) (s : State) : (s.land b).tmr = s.tmr := State.drive_tmr b s
@[simp] theorem State.land_latch (b : Byte) (s : State) : (s.land b).latch = s.latch := State.drive_latch b s
@[simp] theorem State.land_work (b : Byte) (s : State) : (s.land b).work = s.work := State.drive_work b s
@[simp] theorem State.land_wr (b : Byte) (s : State) : (s.land b).wr = s.wr := State.drive_wr b s
@[simp] theorem State.land_rx (b : Byte) (s : State) : (s.land b).rx = s.rx := State.drive_rx b s
@[simp] theorem State.land_cmd (b : Byte) (s : State) : (s.land b).cmd = s.cmd := State.drive_cmd b s
@[simp] theorem State.land_answers (b : Byte) (s : State) : (s.land b).answers = s.answers := State.drive_answers b s
@[simp] theorem State.land_rst (b : Byte) (s : State) : (s.land b).rst = s.rst := State.drive_rst b s
@[simp] theorem State.land_settled (b : Byte) (s : State) : (s.land b).settled = (s.drive b).settled := rfl
@[simp] theorem State.land_bus (b : Byte) (s : State) : (s.land b).bus = s.bus.write s.build.i2cAddr.toNat b := rfl
@[simp] theorem State.land_device (b : Byte) (s : State) : (s.land b).device = (s.drive b).device := rfl
@[simp] theorem State.land_sync (b : Byte) (s : State) : (s.land b).sync = (s.drive b).sync := rfl
@[simp] theorem State.land_draws (b : Byte) (s : State) : (s.land b).draws = s.draws + 1 := rfl
@[simp] theorem State.land_trace (b : Byte) (s : State) : (s.land b).trace = s.trace := State.drive_trace b s
@[simp] theorem State.land_results (b : Byte) (s : State) : (s.land b).results = s.results := State.drive_results b s

/-! ### State.written -/

@[simp] theorem State.written_build (b : Byte) (s : State) : (s.written b).build = s.build := by
  simp [State.written]
@[simp] theorem State.written_phase (b : Byte) (s : State) : (s.written b).phase = s.phase := by
  simp [State.written]
@[simp] theorem State.written_cfg (b : Byte) (s : State) : (s.written b).cfg = s.cfg := by
  simp [State.written]
@[simp] theorem State.written_busy (b : Byte) (s : State) : (s.written b).busy = s.busy := by
  simp [State.written]
@[simp] theorem State.written_status (b : Byte) (s : State) : (s.written b).status = s.status := by
  simp [State.written]
@[simp] theorem State.written_seq (b : Byte) (s : State) : (s.written b).seq = if s.seq.op = .idle then s.seq else seqNext s.seq := by
  show (if (s.land b).seq.op = .idle then (s.land b).seq else seqNext (s.land b).seq) = _
  rw [State.land_seq]
@[simp] theorem State.written_tmr (b : Byte) (s : State) : (s.written b).tmr = s.tmr := by
  simp [State.written]
@[simp] theorem State.written_latch (b : Byte) (s : State) : (s.written b).latch = s.latch := by
  simp [State.written]
@[simp] theorem State.written_work (b : Byte) (s : State) : (s.written b).work = s.work := by
  simp [State.written]
@[simp] theorem State.written_wr (b : Byte) (s : State) : (s.written b).wr = none := rfl
@[simp] theorem State.written_rx (b : Byte) (s : State) : (s.written b).rx = s.rx := by
  simp [State.written]
@[simp] theorem State.written_cmd (b : Byte) (s : State) : (s.written b).cmd = s.cmd := by
  simp [State.written]
@[simp] theorem State.written_answers (b : Byte) (s : State) : (s.written b).answers = s.answers.tail := rfl
@[simp] theorem State.written_rst (b : Byte) (s : State) : (s.written b).rst = rstAfter 1 s.rst := by
  simp [State.written]
@[simp] theorem State.written_settled (b : Byte) (s : State) : (s.written b).settled = (s.drive b).settled := rfl
@[simp] theorem State.written_bus (b : Byte) (s : State) : (s.written b).bus = s.bus.write s.build.i2cAddr.toNat b := rfl
@[simp] theorem State.written_device (b : Byte) (s : State) : (s.written b).device = (s.drive b).device := rfl
@[simp] theorem State.written_sync (b : Byte) (s : State) : (s.written b).sync = (s.drive b).sync := rfl
@[simp] theorem State.written_draws (b : Byte) (s : State) : (s.written b).draws = s.draws + 1 := rfl
@[simp] theorem State.written_trace (b : Byte) (s : State) : (s.written b).trace = s.trace ++ [.write b .ok] := by
  simp [State.written]
@[simp] theorem State.written_results (b : Byte) (s : State) : (s.written b).results = s.results := by
  simp [State.written]

/-! ### State.waited -/

@[simp] theorem State.waited_build (w : Wait) (s : State) : (s.waited w).build = s.build := rfl
@[simp] theorem State.waited_phase (w : Wait) (s : State) : (s.waited w).phase = s.phase := rfl
@[simp] theorem State.waited_cfg (w : Wait) (s : State) : (s.waited w).cfg = s.cfg := rfl
@[simp] theorem State.waited_busy (w : Wait) (s : State) : (s.waited w).busy = s.busy := rfl
@[simp] theorem State.waited_status (w : Wait) (s : State) : (s.waited w).status = s.status := rfl
@[simp] theorem State.waited_seq (w : Wait) (s : State) : (s.waited w).seq = if s.seq.op = .idle then s.seq else seqNext s.seq := rfl
@[simp] theorem State.waited_tmr (w : Wait) (s : State) : (s.waited w).tmr = 0 := rfl
@[simp] theorem State.waited_latch (w : Wait) (s : State) : (s.waited w).latch = s.latch := rfl
@[simp] theorem State.waited_work (w : Wait) (s : State) : (s.waited w).work = s.work := rfl
@[simp] theorem State.waited_wr (w : Wait) (s : State) : (s.waited w).wr = s.wr := rfl
@[simp] theorem State.waited_rx (w : Wait) (s : State) : (s.waited w).rx = s.rx := rfl
@[simp] theorem State.waited_cmd (w : Wait) (s : State) : (s.waited w).cmd = s.cmd := rfl
@[simp] theorem State.waited_answers (w : Wait) (s : State) : (s.waited w).answers = s.answers := rfl
@[simp] theorem State.waited_rst (w : Wait) (s : State) : (s.waited w).rst = rstAfter 1 s.rst := rfl
@[simp] theorem State.waited_settled (w : Wait) (s : State) : (s.waited w).settled = s.settled := rfl
@[simp] theorem State.waited_bus (w : Wait) (s : State) : (s.waited w).bus = s.bus := rfl
@[simp] theorem State.waited_device (w : Wait) (s : State) : (s.waited w).device = deviceRested s.build w s.device := rfl
@[simp] theorem State.waited_sync (w : Wait) (s : State) : (s.waited w).sync = s.sync := rfl
@[simp] theorem State.waited_draws (w : Wait) (s : State) : (s.waited w).draws = s.draws := rfl
@[simp] theorem State.waited_trace (w : Wait) (s : State) : (s.waited w).trace = s.trace ++ [waitEvent s.build w] := rfl
@[simp] theorem State.waited_results (w : Wait) (s : State) : (s.waited w).results = s.results := rfl

/-! ### State.reported -/

@[simp] theorem State.reported_build (s : State) : s.reported.build = s.build := rfl
@[simp] theorem State.reported_phase (s : State) : s.reported.phase = s.phase := rfl
@[simp] theorem State.reported_cfg (s : State) : s.reported.cfg = s.cfg := rfl
@[simp] theorem State.reported_busy (s : State) : s.reported.busy = s.busy := rfl
@[simp] theorem State.reported_status (s : State) : s.reported.status = s.status := rfl
@[simp] theorem State.reported_seq (s : State) : s.reported.seq = s.seq := rfl
@[simp] theorem State.reported_tmr (s : State) : s.reported.tmr = s.tmr := rfl
@[simp] theorem State.reported_latch (s : State) : s.reported.latch = s.latch := rfl
@[simp] theorem State.reported_work (s : State) : s.reported.work = s.work := rfl
@[simp] theorem State.reported_wr (s : State) : s.reported.wr = s.wr := rfl
@[simp] theorem State.reported_rx (s : State) : s.reported.rx = s.rx := rfl
@[simp] theorem State.reported_cmd (s : State) : s.reported.cmd = s.cmd := rfl
@[simp] theorem State.reported_answers (s : State) : s.reported.answers = s.answers := rfl
@[simp] theorem State.reported_rst (s : State) : s.reported.rst = rstAfter 1 s.rst := rfl
@[simp] theorem State.reported_settled (s : State) : s.reported.settled = s.settled := rfl
@[simp] theorem State.reported_bus (s : State) : s.reported.bus = s.bus := rfl
@[simp] theorem State.reported_device (s : State) : s.reported.device = s.device := rfl
@[simp] theorem State.reported_sync (s : State) : s.reported.sync = s.sync := rfl
@[simp] theorem State.reported_draws (s : State) : s.reported.draws = s.draws := rfl
@[simp] theorem State.reported_trace (s : State) : s.reported.trace = s.trace ++ [.invalidLine] := rfl
@[simp] theorem State.reported_results (s : State) : s.reported.results = s.results := rfl

/-! ### State.failed -/

@[simp] theorem State.failed_build (b : Byte) (s : State) : (s.failed b).build = s.build := rfl
@[simp] theorem State.failed_phase (b : Byte) (s : State) : (s.failed b).phase = s.phase := rfl
@[simp] theorem State.failed_cfg (b : Byte) (s : State) : (s.failed b).cfg = s.cfg := rfl
@[simp] theorem State.failed_busy (b : Byte) (s : State) : (s.failed b).busy = false := rfl
@[simp] theorem State.failed_status (b : Byte) (s : State) : (s.failed b).status = statusBusError s.seq.op s.latch.line := rfl
@[simp] theorem State.failed_seq (b : Byte) (s : State) : (s.failed b).seq = Seq.idle := rfl
@[simp] theorem State.failed_tmr (b : Byte) (s : State) : (s.failed b).tmr = s.tmr := rfl
@[simp] theorem State.failed_latch (b : Byte) (s : State) : (s.failed b).latch = s.latch := rfl
@[simp] theorem State.failed_work (b : Byte) (s : State) : (s.failed b).work = [] := rfl
@[simp] theorem State.failed_wr (b : Byte) (s : State) : (s.failed b).wr = none := rfl
@[simp] theorem State.failed_rx (b : Byte) (s : State) : (s.failed b).rx = s.rx := rfl
@[simp] theorem State.failed_cmd (b : Byte) (s : State) : (s.failed b).cmd = s.cmd := rfl
@[simp] theorem State.failed_answers (b : Byte) (s : State) : (s.failed b).answers = s.answers.tail := rfl
@[simp] theorem State.failed_rst (b : Byte) (s : State) : (s.failed b).rst = rstAfter 1 s.rst := rfl
@[simp] theorem State.failed_settled (b : Byte) (s : State) : (s.failed b).settled = s.settled := rfl
@[simp] theorem State.failed_bus (b : Byte) (s : State) : (s.failed b).bus = if Config.failedWriteLands s.draws then s.bus.write s.build.i2cAddr.toNat b else s.bus := rfl
@[simp] theorem State.failed_device (b : Byte) (s : State) : (s.failed b).device = Config.freeDevice s.draws := rfl
@[simp] theorem State.failed_sync (b : Byte) (s : State) : (s.failed b).sync = .lost := rfl
@[simp] theorem State.failed_draws (b : Byte) (s : State) : (s.failed b).draws = s.draws + 1 := rfl
@[simp] theorem State.failed_trace (b : Byte) (s : State) : (s.failed b).trace = s.trace ++ [.write b .err] := rfl
@[simp] theorem State.failed_results (b : Byte) (s : State) : (s.failed b).results = s.results ++ [statusBusError s.seq.op s.latch.line] := rfl

/-! ### State.hardwareReset -/

@[simp] theorem State.hardwareReset_build (cut : Bool) (s : State) : (s.hardwareReset cut).build = s.build := rfl
@[simp] theorem State.hardwareReset_phase (cut : Bool) (s : State) : (s.hardwareReset cut).phase = .uninitialized := rfl
@[simp] theorem State.hardwareReset_cfg (cut : Bool) (s : State) : (s.hardwareReset cut).cfg = Cfg.reset := rfl
@[simp] theorem State.hardwareReset_busy (cut : Bool) (s : State) : (s.hardwareReset cut).busy = false := rfl
@[simp] theorem State.hardwareReset_status (cut : Bool) (s : State) : (s.hardwareReset cut).status = 0b000 := rfl
@[simp] theorem State.hardwareReset_seq (cut : Bool) (s : State) : (s.hardwareReset cut).seq = Seq.idle := rfl
@[simp] theorem State.hardwareReset_tmr (cut : Bool) (s : State) : (s.hardwareReset cut).tmr = 0 := rfl
@[simp] theorem State.hardwareReset_latch (cut : Bool) (s : State) : (s.hardwareReset cut).latch = Latch.reset := rfl
@[simp] theorem State.hardwareReset_work (cut : Bool) (s : State) : (s.hardwareReset cut).work = [] := rfl
@[simp] theorem State.hardwareReset_wr (cut : Bool) (s : State) : (s.hardwareReset cut).wr = none := rfl
@[simp] theorem State.hardwareReset_rx (cut : Bool) (s : State) : (s.hardwareReset cut).rx = none := rfl
@[simp] theorem State.hardwareReset_cmd (cut : Bool) (s : State) : (s.hardwareReset cut).cmd = s.cmd := rfl
@[simp] theorem State.hardwareReset_answers (cut : Bool) (s : State) : (s.hardwareReset cut).answers = s.answers := rfl
@[simp] theorem State.hardwareReset_rst (cut : Bool) (s : State) : (s.hardwareReset cut).rst = s.rst.tail := rfl
@[simp] theorem State.hardwareReset_settled (cut : Bool) (s : State) : (s.hardwareReset cut).settled = s.settled := rfl
@[simp] theorem State.hardwareReset_device (cut : Bool) (s : State) : (s.hardwareReset cut).device = if cut then Config.freeDevice s.draws else s.device := rfl
@[simp] theorem State.hardwareReset_sync (cut : Bool) (s : State) : (s.hardwareReset cut).sync = if cut then .awaiting else if s.sync = .lost then .awaiting else s.sync := rfl
@[simp] theorem State.hardwareReset_draws (cut : Bool) (s : State) : (s.hardwareReset cut).draws = if cut then s.draws + 1 else s.draws := rfl
@[simp] theorem State.hardwareReset_trace (cut : Bool) (s : State) : (s.hardwareReset cut).trace = s.trace := rfl
@[simp] theorem State.hardwareReset_results (cut : Bool) (s : State) : (s.hardwareReset cut).results = s.results := rfl

/-! ### State.asked -/

@[simp] theorem State.asked_build (p : Prim) (s : State) : (s.asked p).build = s.build := by cases p <;> rfl
@[simp] theorem State.asked_phase (p : Prim) (s : State) : (s.asked p).phase = s.phase := by cases p <;> rfl
@[simp] theorem State.asked_cfg (p : Prim) (s : State) : (s.asked p).cfg = s.cfg := by cases p <;> rfl
@[simp] theorem State.asked_busy (p : Prim) (s : State) : (s.asked p).busy = s.busy := by cases p <;> rfl
@[simp] theorem State.asked_status (p : Prim) (s : State) : (s.asked p).status = s.status := by cases p <;> rfl
@[simp] theorem State.asked_seq (p : Prim) (s : State) : (s.asked p).seq = s.seq := by cases p <;> rfl
@[simp] theorem State.asked_tmr (p : Prim) (s : State) : (s.asked p).tmr = s.tmr := by cases p <;> rfl
@[simp] theorem State.asked_latch (p : Prim) (s : State) : (s.asked p).latch = s.latch := by cases p <;> rfl
@[simp] theorem State.asked_work (p : Prim) (s : State) : (s.asked p).work = s.work := by cases p <;> rfl
@[simp] theorem State.asked_rx (p : Prim) (s : State) : (s.asked p).rx = s.rx := by cases p <;> rfl
@[simp] theorem State.asked_cmd (p : Prim) (s : State) : (s.asked p).cmd = s.cmd := by cases p <;> rfl
@[simp] theorem State.asked_answers (p : Prim) (s : State) : (s.asked p).answers = s.answers := by cases p <;> rfl
@[simp] theorem State.asked_rst (p : Prim) (s : State) : (s.asked p).rst = s.rst := by cases p <;> rfl
@[simp] theorem State.asked_settled (p : Prim) (s : State) : (s.asked p).settled = s.settled := by cases p <;> rfl
@[simp] theorem State.asked_bus (p : Prim) (s : State) : (s.asked p).bus = s.bus := by cases p <;> rfl
@[simp] theorem State.asked_device (p : Prim) (s : State) : (s.asked p).device = s.device := by cases p <;> rfl
@[simp] theorem State.asked_sync (p : Prim) (s : State) : (s.asked p).sync = s.sync := by cases p <;> rfl
@[simp] theorem State.asked_draws (p : Prim) (s : State) : (s.asked p).draws = s.draws := by cases p <;> rfl
@[simp] theorem State.asked_trace (p : Prim) (s : State) : (s.asked p).trace = s.trace := by cases p <;> rfl
@[simp] theorem State.asked_results (p : Prim) (s : State) : (s.asked p).results = s.results := by cases p <;> rfl

/-! ### State.resync -/

@[simp] theorem State.resync_build (s : State) : s.resync.build = s.build := by unfold State.resync; split <;> rfl
@[simp] theorem State.resync_phase (s : State) : s.resync.phase = s.phase := by unfold State.resync; split <;> rfl
@[simp] theorem State.resync_cfg (s : State) : s.resync.cfg = s.cfg := by unfold State.resync; split <;> rfl
@[simp] theorem State.resync_busy (s : State) : s.resync.busy = s.busy := by unfold State.resync; split <;> rfl
@[simp] theorem State.resync_status (s : State) : s.resync.status = s.status := by unfold State.resync; split <;> rfl
@[simp] theorem State.resync_seq (s : State) : s.resync.seq = s.seq := by unfold State.resync; split <;> rfl
@[simp] theorem State.resync_tmr (s : State) : s.resync.tmr = s.tmr := by unfold State.resync; split <;> rfl
@[simp] theorem State.resync_latch (s : State) : s.resync.latch = s.latch := by unfold State.resync; split <;> rfl
@[simp] theorem State.resync_work (s : State) : s.resync.work = s.work := by unfold State.resync; split <;> rfl
@[simp] theorem State.resync_wr (s : State) : s.resync.wr = s.wr := by unfold State.resync; split <;> rfl
@[simp] theorem State.resync_rx (s : State) : s.resync.rx = s.rx := by unfold State.resync; split <;> rfl
@[simp] theorem State.resync_cmd (s : State) : s.resync.cmd = s.cmd := by unfold State.resync; split <;> rfl
@[simp] theorem State.resync_answers (s : State) : s.resync.answers = s.answers := by unfold State.resync; split <;> rfl
@[simp] theorem State.resync_rst (s : State) : s.resync.rst = s.rst := by unfold State.resync; split <;> rfl
@[simp] theorem State.resync_settled (s : State) : s.resync.settled = s.settled := by unfold State.resync; split <;> rfl
@[simp] theorem State.resync_bus (s : State) : s.resync.bus = s.bus := by unfold State.resync; split <;> rfl
@[simp] theorem State.resync_draws (s : State) : s.resync.draws = s.draws := by unfold State.resync; split <;> rfl
@[simp] theorem State.resync_trace (s : State) : s.resync.trace = s.trace := by unfold State.resync; split <;> rfl
@[simp] theorem State.resync_results (s : State) : s.resync.results = s.results := by unfold State.resync; split <;> rfl

/-! ### State.complete: what it never changes -/

@[simp] theorem State.complete_build (s : State) : s.complete.build = s.build := by unfold State.complete; split <;> simp
@[simp] theorem State.complete_cfg (s : State) : s.complete.cfg = s.cfg := by unfold State.complete; split <;> simp
@[simp] theorem State.complete_tmr (s : State) : s.complete.tmr = s.tmr := by unfold State.complete; split <;> simp
@[simp] theorem State.complete_latch (s : State) : s.complete.latch = s.latch := by unfold State.complete; split <;> simp
@[simp] theorem State.complete_work (s : State) : s.complete.work = s.work := by unfold State.complete; split <;> simp
@[simp] theorem State.complete_wr (s : State) : s.complete.wr = s.wr := by unfold State.complete; split <;> simp
@[simp] theorem State.complete_rx (s : State) : s.complete.rx = s.rx := by unfold State.complete; split <;> simp
@[simp] theorem State.complete_cmd (s : State) : s.complete.cmd = s.cmd := by unfold State.complete; split <;> simp
@[simp] theorem State.complete_answers (s : State) : s.complete.answers = s.answers := by unfold State.complete; split <;> simp
@[simp] theorem State.complete_rst (s : State) : s.complete.rst = s.rst := by unfold State.complete; split <;> simp
@[simp] theorem State.complete_settled (s : State) : s.complete.settled = s.settled := by unfold State.complete; split <;> simp
@[simp] theorem State.complete_bus (s : State) : s.complete.bus = s.bus := by unfold State.complete; split <;> simp
@[simp] theorem State.complete_draws (s : State) : s.complete.draws = s.draws := by unfold State.complete; split <;> simp
@[simp] theorem State.complete_trace (s : State) : s.complete.trace = s.trace := by unfold State.complete; split <;> simp

theorem State.complete_busy (s : State) : s.complete.busy = false := by unfold State.complete; split <;> rfl

theorem State.complete_seq (s : State) : s.complete.seq = Seq.idle := by unfold State.complete; split <;> rfl

end Sys2Proof.Machine
end

