-- ==== Sys2Proof/Laws/Events.lean ====
section
/-!
SUPPORT. What events and sequences of events do: `runPrim_cases` and `runPrims_cases` say everything that can happen, `runPrims_answered`,
`runPrims_err`, `runPrims_unanswered` and `runPrims_reset` say when.
-/

namespace Sys2Proof.Machine

/-- The effect of an event that nothing stops. -/
def okStep (s : State) (p : Prim) : State :=
  match p with
  | .wait w => s.waited w
  | .report => s.reported
  | .write _ b => s.written b

/-- The effect of events that nothing stops. -/
def okSteps (ps : List Prim) (s : State) : State := ps.foldl okStep s

/-- The event of a piece of work that nothing stops. -/
def okEvent (build : Build) : Prim → Event
  | .wait w => waitEvent build w
  | .report => .invalidLine
  | .write _ b => .write b .ok

/-- How many of the events are writes. -/
def writeCount : List Prim → Nat
  | [] => 0
  | .wait _ :: ps => writeCount ps
  | .report :: ps => writeCount ps
  | .write _ _ :: ps => writeCount ps + 1

@[simp] theorem okSteps_nil (s : State) : okSteps [] s = s := rfl
@[simp] theorem okSteps_cons (p : Prim) (ps : List Prim) (s : State) : okSteps (p :: ps) s = okSteps ps (okStep s p) := rfl
theorem okSteps_append (ps qs : List Prim) (s : State) : okSteps (ps ++ qs) s = okSteps qs (okSteps ps s) := by
  simp [okSteps, List.foldl_append]

theorem writeCount_append (ps qs : List Prim) : writeCount (ps ++ qs) = writeCount ps + writeCount qs := by
  induction ps with
  | nil => simp [writeCount]
  | cons p ps ih => cases p <;> simp [writeCount, ih]; omega

/-! ## What an uninterrupted sequence leaves -/

@[simp] theorem okStep_trace (s : State) (p : Prim) : (okStep s p).trace = s.trace ++ [okEvent s.build p] := by
  cases p <;> simp [okStep, okEvent]
@[simp] theorem okStep_rst (s : State) (p : Prim) : (okStep s p).rst = rstAfter 1 s.rst := by
  cases p <;> simp [okStep]
@[simp] theorem okStep_build (s : State) (p : Prim) : (okStep s p).build = s.build := by cases p <;> simp [okStep]
@[simp] theorem okStep_phase (s : State) (p : Prim) : (okStep s p).phase = s.phase := by cases p <;> simp [okStep]
@[simp] theorem okStep_cfg (s : State) (p : Prim) : (okStep s p).cfg = s.cfg := by cases p <;> simp [okStep]
@[simp] theorem okStep_busy (s : State) (p : Prim) : (okStep s p).busy = s.busy := by cases p <;> simp [okStep]
@[simp] theorem okStep_status (s : State) (p : Prim) : (okStep s p).status = s.status := by cases p <;> simp [okStep]
@[simp] theorem okStep_latch (s : State) (p : Prim) : (okStep s p).latch = s.latch := by cases p <;> simp [okStep]
@[simp] theorem okStep_work (s : State) (p : Prim) : (okStep s p).work = s.work := by cases p <;> simp [okStep]
@[simp] theorem okStep_rx (s : State) (p : Prim) : (okStep s p).rx = s.rx := by cases p <;> simp [okStep]
@[simp] theorem okStep_cmd (s : State) (p : Prim) : (okStep s p).cmd = s.cmd := by cases p <;> simp [okStep]
@[simp] theorem okStep_results (s : State) (p : Prim) : (okStep s p).results = s.results := by
  cases p <;> simp [okStep]
theorem seqNext_op (q : Seq) : (seqNext q).op = q.op := by
  unfold seqNext
  repeat' split
  all_goals rfl
@[simp] theorem okStep_seq_op (s : State) (p : Prim) : (okStep s p).seq.op = s.seq.op := by
  cases p <;> simp [okStep] <;> split <;> simp [seqNext_op]

@[simp] theorem okSteps_build (ps : List Prim) (s : State) : (okSteps ps s).build = s.build := by
  induction ps generalizing s <;> simp [*]
@[simp] theorem okSteps_phase (ps : List Prim) (s : State) : (okSteps ps s).phase = s.phase := by
  induction ps generalizing s <;> simp [*]
@[simp] theorem okSteps_cfg (ps : List Prim) (s : State) : (okSteps ps s).cfg = s.cfg := by
  induction ps generalizing s <;> simp [*]
@[simp] theorem okSteps_busy (ps : List Prim) (s : State) : (okSteps ps s).busy = s.busy := by
  induction ps generalizing s <;> simp [*]
@[simp] theorem okSteps_status (ps : List Prim) (s : State) : (okSteps ps s).status = s.status := by
  induction ps generalizing s <;> simp [*]
@[simp] theorem okSteps_latch (ps : List Prim) (s : State) : (okSteps ps s).latch = s.latch := by
  induction ps generalizing s <;> simp [*]
@[simp] theorem okSteps_work (ps : List Prim) (s : State) : (okSteps ps s).work = s.work := by
  induction ps generalizing s <;> simp [*]
@[simp] theorem okSteps_rx (ps : List Prim) (s : State) : (okSteps ps s).rx = s.rx := by
  induction ps generalizing s <;> simp [*]
@[simp] theorem okSteps_cmd (ps : List Prim) (s : State) : (okSteps ps s).cmd = s.cmd := by
  induction ps generalizing s <;> simp [*]
theorem drive_sync (b : Byte) (s : State) :
    (s.drive b).sync = s.sync ∨ (s.sync = .inStep ∧ s.device.busy = true ∧ (s.drive b).sync = .lost) := by
  unfold State.drive State.deviceReady
  repeat' split
  all_goals simp_all

theorem okStep_sync (s : State) (p : Prim) :
    (okStep s p).sync = s.sync ∨ (s.sync = .inStep ∧ (okStep s p).sync = .lost) := by
  cases p with
  | wait w => simp [okStep]
  | report => simp [okStep]
  | write pl b =>
    rcases drive_sync b s with h | ⟨h1, _, h2⟩
    · left; simpa [okStep] using h
    · right; simpa [okStep] using ⟨h1, h2⟩

/-- What is known of the display after a sequence: the same, or lost at a fault of the display. -/
theorem okSteps_sync (ps : List Prim) (s : State) :
    (okSteps ps s).sync = s.sync ∨ (s.sync = .inStep ∧ (okSteps ps s).sync = .lost) := by
  induction ps generalizing s with
  | nil => left; rfl
  | cons p ps ih =>
    rw [okSteps_cons]
    rcases okStep_sync s p with h | ⟨h1, h2⟩ <;> rcases ih (okStep s p) with g | ⟨g1, g2⟩ <;> simp_all

theorem okSteps_sync_awaiting (ps : List Prim) (s : State) (h : s.sync = .awaiting) :
    (okSteps ps s).sync = .awaiting := by
  rcases okSteps_sync ps s with h1 | ⟨h1, _⟩ <;> simp_all
@[simp] theorem okSteps_results (ps : List Prim) (s : State) : (okSteps ps s).results = s.results := by
  induction ps generalizing s <;> simp [*]
@[simp] theorem okSteps_seq_op (ps : List Prim) (s : State) : (okSteps ps s).seq.op = s.seq.op := by
  induction ps generalizing s <;> simp [*]
@[simp] theorem okSteps_trace (ps : List Prim) (s : State) :
    (okSteps ps s).trace = s.trace ++ ps.map (okEvent s.build) := by
  induction ps generalizing s <;> simp [*]

theorem okStep_tmr (s : State) (p : Prim) (h : s.tmr = 0) : (okStep s p).tmr = 0 := by cases p <;> simp [okStep, h]

theorem okSteps_tmr (ps : List Prim) (s : State) (h : s.tmr = 0) : (okSteps ps s).tmr = 0 := by
  induction ps generalizing s with
  | nil => exact h
  | cons p ps ih => exact ih _ (okStep_tmr s p h)

theorem okSteps_idle_seq (ps : List Prim) (s : State) (h : s.seq.op = .idle) : (okSteps ps s).seq = s.seq := by
  induction ps generalizing s with
  | nil => rfl
  | cons p ps ih =>
    have h1 : (okStep s p).seq = s.seq := by cases p <;> simp [okStep, h]
    rw [okSteps_cons, ih _ (by rw [h1]; exact h), h1]

/-- The request port after a sequence: free if it made a write, and else as before. -/
theorem okSteps_wr (ps : List Prim) (s : State) : (okSteps ps s).wr = if writeCount ps = 0 then s.wr else none := by
  induction ps generalizing s with
  | nil => simp [writeCount]
  | cons p ps ih =>
    by_cases h : writeCount ps = 0 <;> cases p <;> simp [writeCount, ih, okStep, h]

/-- Only the device's own address is written. -/
theorem okSteps_read_other (ps : List Prim) (s : State) (a : Nat) (h : a ≠ s.build.i2cAddr.toNat) :
    (okSteps ps s).bus.read a = s.bus.read a := by
  induction ps generalizing s with
  | nil => rfl
  | cons p ps ih =>
    rw [okSteps_cons, ih _ (by simpa using h)]
    cases p <;> simp [okStep, Memory.read_write_other _ (Ne.symm h)]

theorem okSteps_bus_wf (ps : List Prim) (s : State) (h : s.bus.wf = true) : (okSteps ps s).bus.wf = true := by
  induction ps generalizing s with
  | nil => exact h
  | cons p ps ih =>
    apply ih
    cases p <;> simp [okStep, h, Memory.wf_write]

theorem rstAfter_rstAfter (n m : Nat) (r : List Nat) : rstAfter n (rstAfter m r) = rstAfter (n + m) r := by
  cases r <;> simp [rstAfter]; omega

@[simp] theorem rstAfter_length (n : Nat) (r : List Nat) : (rstAfter n r).length = r.length := by cases r <;> rfl

theorem okSteps_rst (ps : List Prim) (s : State) : (okSteps ps s).rst = rstAfter ps.length s.rst := by
  induction ps generalizing s with
  | nil => cases h : s.rst <;> simp [rstAfter, h]
  | cons p ps ih => simp [ih, rstAfter_rstAfter]

theorem okSteps_answers (ps : List Prim) (s : State) : (okSteps ps s).answers = s.answers.drop (writeCount ps) := by
  induction ps generalizing s with
  | nil => simp [writeCount]
  | cons p ps ih => cases p <;> simp [writeCount, ih, okStep]

/-- The byte at the expander after a sequence: the last one written. -/
theorem okSteps_lines (ps : List Prim) (s : State) :
    (okSteps ps s).lines = ((writesOf (ps.map (okEvent s.build))).getLast?).getD s.lines := by
  induction ps generalizing s with
  | nil => simp [writesOf]
  | cons p ps ih =>
    rw [okSteps_cons, ih, okStep_build]
    cases p with
    | wait w => cases w <;> simp [okStep, okEvent, waitEvent, writesOf, State.lines]
    | report => simp [okStep, okEvent, writesOf, State.lines]
    | write pl b =>
      simp only [okStep, okEvent, writesOf, State.lines, State.written_bus, State.written_build, Memory.read_write_same,
        List.map_cons]
      cases h : writesOf (List.map (okEvent s.build) ps) <;> simp [List.getLast?_cons]

/-! ## What can happen -/

/-- Everything one event can do. -/
theorem runPrim_cases (p : Prim) (s : State) :
    (s.rst.head? = some 0 ∧ runPrim p s = .ended ((s.asked p).hardwareReset true)) ∨
    (s.rst.head? ≠ some 0 ∧
      ((runPrim p s = .goOn (okStep s p) ∧ ((∀ pl b, p ≠ .write pl b) ∨ s.answers.head? = some .ok)) ∨
       (∃ pl b, p = .write pl b ∧ s.answers = [] ∧ runPrim p s = .waiting { s with wr := some b }) ∨
       (∃ pl b, p = .write pl b ∧ s.answers.head? = some .err ∧ runPrim p s = .ended (s.failed b)))) := by
  by_cases h : s.rst.head? = some 0
  · left; refine ⟨h, ?_⟩
    simp [runPrim, State.resetDue, h]
  · right; refine ⟨h, ?_⟩
    cases p with
    | wait w => left; simp [runPrim, State.resetDue, h, okStep]
    | report => left; simp [runPrim, State.resetDue, h, okStep]
    | write pl b =>
      cases ha : s.answers with
      | nil => right; left; exact ⟨pl, b, rfl, rfl, by simp [runPrim, State.resetDue, h, busWrite, ha]⟩
      | cons a as =>
        cases a with
        | ok => left; simp [runPrim, State.resetDue, h, busWrite, ha, okStep]
        | err => right; right; exact ⟨pl, b, rfl, rfl, by simp [runPrim, State.resetDue, h, busWrite, ha]⟩

/-- Everything a sequence of events can do: run to its end, or stop at one of them, at a reset, at an unanswered write or at a write
answered Err. -/
theorem runPrims_cases (ps : List Prim) (s : State) :
    runPrims ps s = .goOn (okSteps ps s) ∨
    (∃ pre p post, ps = pre ++ p :: post ∧
      ((runPrims ps s = .ended (((okSteps pre s).asked p).hardwareReset true)) ∨
       (∃ pl b, p = .write pl b ∧
          runPrims ps s = .waiting { okSteps pre s with wr := some b, work := (p :: post).map Item.prim ++ s.work }) ∨
       (∃ pl b, p = .write pl b ∧ runPrims ps s = .ended ((okSteps pre s).failed b)))) := by
  induction ps generalizing s with
  | nil => left; rfl
  | cons p ps ih =>
    rcases runPrim_cases p s with ⟨_, h⟩ | ⟨_, ⟨h, _⟩ | ⟨pl, b, hp, _, h⟩ | ⟨pl, b, hp, _, h⟩⟩
    · right; exact ⟨[], p, ps, rfl, .inl (by simp [runPrims, h])⟩
    · rcases ih (okStep s p) with h2 | ⟨pre, q, post, hps, h2⟩
      · left; simp [runPrims, h, h2]
      · right
        refine ⟨p :: pre, q, post, by simp [hps], ?_⟩
        have hrun : runPrims (p :: ps) s = runPrims ps (okStep s p) := by simp [runPrims, h]
        rw [hrun]
        simpa using h2
    · right; exact ⟨[], p, ps, rfl, .inr (.inl ⟨pl, b, hp, by simp [runPrims, h]⟩)⟩
    · right; exact ⟨[], p, ps, rfl, .inr (.inr ⟨pl, b, hp, by simp [runPrims, h]⟩)⟩

/-! ## When it happens -/

theorem runPrim_ok (p : Prim) (s : State) (hq : s.rst.head? ≠ some 0)
    (ha : (∀ pl b, p ≠ .write pl b) ∨ s.answers.head? = some .ok) : runPrim p s = .goOn (okStep s p) := by
  rcases runPrim_cases p s with ⟨h, _⟩ | ⟨_, ⟨h, _⟩ | ⟨pl, b, hp, h, _⟩ | ⟨pl, b, hp, h, _⟩⟩
  · exact absurd h hq
  · exact h
  · rcases ha with ha | ha
    · exact absurd hp (ha pl b)
    · simp [h] at ha
  · rcases ha with ha | ha
    · exact absurd hp (ha pl b)
    · simp [h] at ha

theorem Quiet_ne {n : Nat} {s : State} (h : s.Quiet (n + 1)) : s.rst.head? ≠ some 0 := by
  intro h0; have := h 0 h0; omega

theorem Quiet_step {n : Nat} {s : State} (p : Prim) (h : s.Quiet (n + 1)) : (okStep s p).Quiet n := by
  intro k hk
  simp only [okStep_rst] at hk
  cases hr : s.rst with
  | nil => simp [rstAfter, hr] at hk
  | cons m ms =>
    simp only [rstAfter, hr, List.head?_cons, Option.some.injEq] at hk
    have := h m (by simp [hr])
    omega

/-- Before a stop: a prefix that no reset interrupts and whose writes are answered Ok is run in full. -/
theorem runPrims_prefix (pre post : List Prim) (s : State) (rest : List Answer) (hq : s.Quiet pre.length)
    (ha : s.Answered (writeCount pre) rest) :
    runPrims (pre ++ post) s = runPrims post (okSteps pre s) := by
  induction pre generalizing s with
  | nil => rfl
  | cons p pre ih =>
    have hgo : runPrim p s = .goOn (okStep s p) := by
      apply runPrim_ok p s (Quiet_ne hq)
      cases p with
      | wait w => left; simp
      | report => left; simp
      | write pl b => right; simp [ha, writeCount, List.replicate_succ]
    have hrun : runPrims (p :: pre ++ post) s = runPrims (pre ++ post) (okStep s p) := by
      simp [runPrims, hgo]
    rw [hrun, okSteps_cons]
    apply ih _ (Quiet_step p hq)
    cases p with
    | wait w => simpa [okStep, State.Answered, writeCount] using ha
    | report => simpa [okStep, State.Answered, writeCount] using ha
    | write pl b => simp [okStep, State.Answered, ha, writeCount, List.replicate_succ]

/-- No reset, every write answered Ok: the sequence runs to its end. -/
theorem runPrims_answered (ps : List Prim) (s : State) (rest : List Answer) (hq : s.Quiet ps.length)
    (ha : s.Answered (writeCount ps) rest) : runPrims ps s = .goOn (okSteps ps s) := by
  have := runPrims_prefix ps [] s rest hq ha
  simpa [runPrims] using this

theorem okSteps_answers_of (pre : List Prim) (s : State) (rest : List Answer) (ha : s.Answered (writeCount pre) rest) :
    (okSteps pre s).answers = rest := by
  rw [okSteps_answers, ha]; simp

theorem okSteps_head_ne (pre : List Prim) (s : State) (hq : s.Quiet (pre.length + 1)) :
    (okSteps pre s).rst.head? ≠ some 0 := by
  rw [okSteps_rst]
  cases hr : s.rst with
  | nil => simp [rstAfter]
  | cons m ms =>
    have := hq m (by simp [hr])
    simp [rstAfter]; omega

/-- A write answered Err ends the operation there. -/
theorem runPrims_err (pre post : List Prim) (pl : Place) (b : Byte) (s : State) (rest : List Answer)
    (hq : s.Quiet (pre.length + 1)) (ha : s.AnsweredErr (writeCount pre) rest) :
    runPrims (pre ++ .write pl b :: post) s = .ended ((okSteps pre s).failed b) := by
  rw [runPrims_prefix pre _ s (.err :: rest) (fun k hk => by have := hq k hk; omega) ha]
  have hans := okSteps_answers_of pre s _ ha
  have hne := okSteps_head_ne pre s hq
  simp [runPrims, runPrim, State.resetDue, hne, busWrite, hans]

/-- A write that is not answered holds the operation up. -/
theorem runPrims_unanswered (pre post : List Prim) (pl : Place) (b : Byte) (s : State)
    (hq : s.Quiet (pre.length + 1)) (ha : s.Answered (writeCount pre) []) :
    runPrims (pre ++ .write pl b :: post) s =
      .waiting { okSteps pre s with
        wr := some b, work := (Prim.write pl b :: post).map Item.prim ++ s.work } := by
  rw [runPrims_prefix pre _ s [] (fun k hk => by have := hq k hk; omega) ha]
  have hans := okSteps_answers_of pre s _ ha
  have hne := okSteps_head_ne pre s hq
  simp [runPrims, runPrim, State.resetDue, hne, busWrite, hans]

/-- A reset that is due after as many events ends the operation there. -/
theorem runPrims_reset (pre post : List Prim) (p : Prim) (s : State) (ks : List Nat) (rest : List Answer)
    (hr : s.rst = pre.length :: ks) (ha : s.Answered (writeCount pre) rest) :
    runPrims (pre ++ p :: post) s = .ended (((okSteps pre s).asked p).hardwareReset true) := by
  rw [runPrims_prefix pre _ s rest (fun k hk => by simp [hr] at hk; omega) ha]
  have h0 : (okSteps pre s).rst.head? = some 0 := by rw [okSteps_rst, hr]; simp [rstAfter]
  simp [runPrims, runPrim, State.resetDue, h0]

end Sys2Proof.Machine
end

