-- ==== Sys2Proof/Laws/Traces.lean ====
section
/-!
SUPPORT. The machine's sequences of events against the traces the rules write out: a nibble, a byte, and the three public operations.
-/

namespace Sys2Proof.Machine

theorem enableSet_eq (p : Byte) : enableSet p = p ||| 0x04 := rfl

theorem enableClear_eq (p : Byte) : enableClear p = p &&& 0xFB := rfl

/-- NIBBLE's events are those of R135. -/
theorem nibble_events (build : Build) (p : Byte) : (nibble p).map (okEvent build) = nibbleTrace build p := rfl

/-- SENDBYTE's events are those of R136. -/
theorem sendByte_events (build : Build) (bl : Bool) (m : Mode) (v : Byte) :
    (sendByte bl m v).map (okEvent build) = byteTrace build bl m v := by
  cases m <;> cases bl <;> rfl

@[simp] theorem sendByte_length (bl : Bool) (m : Mode) (v : Byte) : (sendByte bl m v).length = 12 := rfl

@[simp] theorem sendByte_writeCount (bl : Bool) (m : Mode) (v : Byte) : writeCount (sendByte bl m v) = 6 := rfl

@[simp] theorem byteTrace_length (build : Build) (bl : Bool) (m : Mode) (v : Byte) :
    (byteTrace build bl m v).length = 12 := rfl

theorem writesOf_append (es fs : List Event) : writesOf (es ++ fs) = writesOf es ++ writesOf fs := by
  induction es with
  | nil => rfl
  | cons e es ih => cases e <;> simp [writesOf, ih]

theorem waitUnits_append (es fs : List Event) : waitUnits (es ++ fs) = waitUnits es + waitUnits fs := by
  induction es with
  | nil => simp [waitUnits]
  | cons e es ih => cases e <;> simp [waitUnits, ih]; omega

theorem waitMillis_append (es fs : List Event) : waitMillis (es ++ fs) = waitMillis es + waitMillis fs := by
  induction es with
  | nil => simp [waitMillis]
  | cons e es ih => cases e <;> simp [waitMillis, ih]; omega

/-- A sequence makes as many writes as its events hold. -/
theorem writeCount_eq (build : Build) (ps : List Prim) : writeCount ps = (writesOf (ps.map (okEvent build))).length := by
  induction ps with
  | nil => rfl
  | cons p ps ih =>
    cases p with
    | wait w => cases w <;> simp [writeCount, okEvent, waitEvent, writesOf, ih]
    | report => simp [writeCount, okEvent, writesOf, ih]
    | write pl b => simp [writeCount, okEvent, writesOf, ih]

theorem charUop_expand (bl : Bool) (c : Byte) : expand bl (.uop (charUop c)) = sendByte bl .data c := by
  have h1 : (charUop c).getLsbD 8 = true := by
    simp only [charUop, BitVec.getLsbD_append]; simp
  have h2 : (charUop c).extractLsb' 0 8 = c := by
    apply BitVec.eq_of_getLsbD_eq
    intro k hk
    simp only [BitVec.getLsbD_extractLsb', charUop, BitVec.getLsbD_append]
    simp [hk]
  simp [expand, h1, h2, Mode.ofBit]

/-- The events of a text are those of its characters in Data mode (R173). -/
theorem text_expand (bl : Bool) (text : List Byte) :
    (text.map (fun c => Item.uop (charUop c))).flatMap (expand bl) = text.flatMap (sendByte bl .data) := by
  induction text with
  | nil => rfl
  | cons c text ih => simp only [List.map_cons, List.flatMap_cons, ih, charUop_expand]

theorem map_flatMap_sendByte (build : Build) (bl : Bool) (m : Mode) (text : List Byte) :
    (text.flatMap (sendByte bl m)).map (okEvent build) = text.flatMap (byteTrace build bl m) := by
  induction text with
  | nil => rfl
  | cons c text ih => simp only [List.flatMap_cons, List.map_append, ih, sendByte_events]

/-- The events of PRINT: the address step, then the text. -/
theorem print_events (bl : Bool) (latch : Latch) :
    (program .print latch).flatMap (expand bl) =
      (match Config.lineByte latch.line with
        | some b => sendByte bl .command b
        | none => [.report]) ++ latch.text.flatMap (sendByte bl .data) := by
  simp only [program, List.flatMap_append, text_expand, addressStep]
  cases Config.lineByte latch.line <;> simp [expand]

theorem construct_events (bl : Bool) (latch : Latch) :
    (program .construct latch).flatMap (expand bl) =
      .wait .powerUp :: ([0x33, 0x32, 0x06, 0x0C, 0x28, 0x01] : List Byte).flatMap (sendByte bl .command) := by
  simp [program, expand, Config.init]

theorem clear_events (bl : Bool) (latch : Latch) :
    (program .clear latch).flatMap (expand bl) = sendByte bl .command 0x01 := by
  simp [program, expand]

/-- CONSTRUCT's trace (R110). -/
theorem construct_trace (build : Build) (bl : Bool) (latch : Latch) :
    ((program .construct latch).flatMap (expand bl)).map (okEvent build) = constructTrace build bl := by
  rw [construct_events, List.map_cons, map_flatMap_sendByte]; rfl

/-- PRINT's trace (R170). -/
theorem print_trace (build : Build) (bl : Bool) (text : List Byte) (line : BitVec 8) :
    ((program .print { text := text, line := line }).flatMap (expand bl)).map (okEvent build) =
      printTrace build bl text line := by
  rw [print_events, List.map_append, map_flatMap_sendByte, printTrace]
  congr 1
  simp only [Config.lineByte]
  split
  · next h => split at h <;> (try split at h) <;> simp_all [sendByte_events]
  · next h => split at h <;> (try split at h) <;> simp_all [okEvent]

/-- CLEAR's trace (R176). -/
theorem clear_trace (build : Build) (bl : Bool) (latch : Latch) :
    ((program .clear latch).flatMap (expand bl)).map (okEvent build) = clearTrace build bl := by
  rw [clear_events, sendByte_events]; rfl

end Sys2Proof.Machine
end

