-- ==== Sys2Proof/Laws/Exec.lean ====
section
/-!
SUPPORT. What an instruction can do, once for all sixteen: an internal operation runs its events (`exec_inner`), a command word is not
taken, refused, or accepted and run (`exec_command`).
-/

namespace Sys2Proof.Machine

/-- The events of an internal operation. -/
def innerEvents (bl : Bool) (i : Instr) : List Prim :=
  match i with
  | .construct _ _ _ => []
  | .print _ _ => []
  | .clear => []
  | .cwReserved _ => []
  | .sendbyte m v => sendByte bl m v
  | .pktPresent d b r => [.write .present (pktByte d b false r)]
  | .pktEset d b r => [.write .eset (pktByte d b true r)]
  | .pktEclr d b r => [.write .eclr (pktByte d b false r)]
  | .lcdReset4 => sendByte bl .command 0x33
  | .lcdSet4 => sendByte bl .command 0x32
  | .lcdEntry => sendByte bl .command 0x06
  | .lcdDispon => sendByte bl .command 0x0C
  | .lcdFunc => sendByte bl .command 0x28
  | .lcdClear => sendByte bl .command 0x01
  | .lcdLine1 => sendByte bl .command 0x80
  | .lcdLine2 => sendByte bl .command 0xC0

/-- The operation that a command word begins. -/
def opOf : Instr → Op
  | .construct _ _ _ => .construct
  | .print _ _ => .print
  | .clear => .clear
  | .cwReserved _ => .idle
  | .sendbyte _ _ => .idle
  | .pktPresent _ _ _ => .idle
  | .pktEset _ _ _ => .idle
  | .pktEclr _ _ _ => .idle
  | .lcdReset4 => .idle
  | .lcdSet4 => .idle
  | .lcdEntry => .idle
  | .lcdDispon => .idle
  | .lcdFunc => .idle
  | .lcdClear => .idle
  | .lcdLine1 => .idle
  | .lcdLine2 => .idle

/-- The state in which an accepted command word's events begin: operands written, busy, the sequencer at its start. -/
def begun (i : Instr) (s : State) : State :=
  match i with
  | .construct w h b => ({ s with cfg := { width := w, height := h, backlight := b } } : State).accept .construct
  | .print text line => ({ s with latch := { text := text, line := line } } : State).accept .print
  | .clear => s.accept .clear
  | .cwReserved _ => s
  | .sendbyte _ _ => s
  | .pktPresent _ _ _ => s
  | .pktEset _ _ _ => s
  | .pktEclr _ _ _ => s
  | .lcdReset4 => s
  | .lcdSet4 => s
  | .lcdEntry => s
  | .lcdDispon => s
  | .lcdFunc => s
  | .lcdClear => s
  | .lcdLine1 => s
  | .lcdLine2 => s

theorem exec_inner (i : Instr) (s : State) (h : isCommand i = false) :
    exec i s = runInner (innerEvents s.cfg.backlight i) s := by
  cases i <;> first | (simp [isCommand] at h; done) | rfl

theorem exec_command (i : Instr) (s : State) (h : isCommand i = true) :
    exec i s = if s.busy then .next s
      else if acceptedIn i = some s.phase then (begun i s).operate else .next s.refuse := by
  cases i <;> simp only [isCommand, Bool.false_eq_true] at h <;>
    simp only [exec, execConstruct, execPrint, execClear, execCwReserved, offered, acceptedIn, begun] <;>
    cases s.busy <;> cases s.phase <;> simp

@[simp] theorem begun_trace (i : Instr) (s : State) : (begun i s).trace = s.trace := by cases i <;> rfl
@[simp] theorem begun_build (i : Instr) (s : State) : (begun i s).build = s.build := by cases i <;> rfl
@[simp] theorem begun_phase (i : Instr) (s : State) : (begun i s).phase = s.phase := by cases i <;> rfl
@[simp] theorem begun_status (i : Instr) (s : State) : (begun i s).status = s.status := by cases i <;> rfl
@[simp] theorem begun_tmr (i : Instr) (s : State) : (begun i s).tmr = s.tmr := by cases i <;> rfl
@[simp] theorem begun_work (i : Instr) (s : State) : (begun i s).work = s.work := by cases i <;> rfl
@[simp] theorem begun_wr (i : Instr) (s : State) : (begun i s).wr = s.wr := by cases i <;> rfl
@[simp] theorem begun_rx (i : Instr) (s : State) : (begun i s).rx = s.rx := by cases i <;> rfl
@[simp] theorem begun_cmd (i : Instr) (s : State) : (begun i s).cmd = s.cmd := by cases i <;> rfl
@[simp] theorem begun_answers (i : Instr) (s : State) : (begun i s).answers = s.answers := by cases i <;> rfl
@[simp] theorem begun_rst (i : Instr) (s : State) : (begun i s).rst = s.rst := by cases i <;> rfl
@[simp] theorem begun_bus (i : Instr) (s : State) : (begun i s).bus = s.bus := by cases i <;> rfl
@[simp] theorem begun_device (i : Instr) (s : State) : (begun i s).device = s.device := by cases i <;> rfl
@[simp] theorem begun_sync (i : Instr) (s : State) : (begun i s).sync = s.sync := by cases i <;> rfl
@[simp] theorem begun_draws (i : Instr) (s : State) : (begun i s).draws = s.draws := by cases i <;> rfl
@[simp] theorem begun_results (i : Instr) (s : State) : (begun i s).results = s.results := by cases i <;> rfl

/-- An accepted operation's events, answered Ok, are its trace. -/
theorem begun_events (i : Instr) (s : State) (p : Phase) (h : acceptedIn i = some p) :
    (begun i s).events.map (okEvent s.build) = operationTrace i s := by
  cases i with
  | construct w h b => exact construct_trace s.build b s.latch
  | print text line => exact print_trace s.build s.cfg.backlight text line
  | clear => exact clear_trace s.build s.cfg.backlight s.latch
  | _ => simp [acceptedIn] at h

theorem begun_busy (i : Instr) (s : State) (p : Phase) (h : acceptedIn i = some p) : (begun i s).busy = true := by
  cases i <;> first | (simp [acceptedIn] at h; done) | rfl

theorem begun_op (i : Instr) (s : State) (p : Phase) (h : acceptedIn i = some p) : (begun i s).seq.op = opOf i := by
  cases i <;> first | (simp [acceptedIn] at h; done) | rfl

/-- The three ways an accepted operation's outcome is made. -/
theorem operate_cases (s : State) :
    s.operate = .next (okSteps s.events s).complete ∨
    (∃ pre p post, s.events = pre ++ p :: post ∧
      ((s.operate = .next (((okSteps pre s).asked p).hardwareReset true)) ∨
       (∃ pl b, p = .write pl b ∧
          s.operate = .next { okSteps pre s with wr := some b, work := (p :: post).map Item.prim ++ s.work }) ∨
       (∃ pl b, p = .write pl b ∧ s.operate = .next ((okSteps pre s).failed b)))) := by
  rcases runPrims_cases s.events s with h | ⟨pre, p, post, hps, h | ⟨pl, b, hp, h⟩ | ⟨pl, b, hp, h⟩⟩
  · left; simp [State.operate, h, Run.finish]
  · right; exact ⟨pre, p, post, hps, .inl (by simp [State.operate, h, Run.finish])⟩
  · right; exact ⟨pre, p, post, hps, .inr (.inl ⟨pl, b, hp, by simp [State.operate, h, Run.finish]⟩)⟩
  · right; exact ⟨pre, p, post, hps, .inr (.inr ⟨pl, b, hp, by simp [State.operate, h, Run.finish]⟩)⟩

/-- The same for an internal operation. -/
theorem runInner_cases (ps : List Prim) (s : State) :
    runInner ps s = .next (okSteps ps s) ∨
    (∃ pre p post, ps = pre ++ p :: post ∧
      ((runInner ps s = .next (((okSteps pre s).asked p).hardwareReset true)) ∨
       (∃ pl b, p = .write pl b ∧
          runInner ps s = .next { okSteps pre s with wr := some b, work := (p :: post).map Item.prim ++ s.work }) ∨
       (∃ pl b, p = .write pl b ∧ runInner ps s = .next ((okSteps pre s).failed b)))) := by
  rcases runPrims_cases ps s with h | ⟨pre, p, post, hps, h | ⟨pl, b, hp, h⟩ | ⟨pl, b, hp, h⟩⟩
  · left; simp [runInner, h, Run.settle]
  · right; exact ⟨pre, p, post, hps, .inl (by simp [runInner, h, Run.settle])⟩
  · right; exact ⟨pre, p, post, hps, .inr (.inl ⟨pl, b, hp, by simp [runInner, h, Run.settle]⟩)⟩
  · right; exact ⟨pre, p, post, hps, .inr (.inr ⟨pl, b, hp, by simp [runInner, h, Run.settle]⟩)⟩

end Sys2Proof.Machine
end

