-- ==== Sys2Proof/Laws/Step.lean ====
section
/-!
SUPPORT. What a step can do (`step_cases`): a reset, the events of the next entry of the queue and, with the last, the completion of the
operation in progress, the taking of transfers, or a command word.
-/

namespace Sys2Proof.Machine

/-- A byte with R/W clear is the packet of its fields (R81). -/
theorem pktByte_of_fields (b : Byte) (h : b.getLsbD 1 = false) :
    pktByte (b.extractLsb' 4 4) (b.getLsbD 3) (b.getLsbD 2) (Mode.ofBit (b.getLsbD 0)) = b := by
  revert b; decide

/-- A packet word that decodes belongs to its place, and its instruction makes that one write. -/
theorem decodePkt_ok (place : Place) (b : Byte) (i : Instr) (h : decodePkt place b = .ok i) :
    primLegal (.write place b) = true ∧ isCommand i = false ∧ ∀ bl, innerEvents bl i = [.write place b] := by
  have h1 : b.getLsbD 1 = false := by
    cases hb : b.getLsbD 1 with
    | false => rfl
    | true => simp [decodePkt, hb] at h
  have hb := pktByte_of_fields b h1
  cases place <;> cases h2 : b.getLsbD 2 <;> simp only [decodePkt, h1, h2, Bool.false_eq_true, if_false] at h <;>
    cases h
  all_goals
    simp only [h2] at hb
    simp only [primLegal, h1, h2, isCommand, innerEvents, hb, Bool.not_false, Bool.and_self, implies_true, and_self]

/-- A command byte that decodes is sent in Command mode (R87). -/
theorem decodeLcdCmd_ok (b : Byte) (i : Instr) (h : decodeLcdCmd b = .ok i) :
    isCommand i = false ∧ ∀ bl, innerEvents bl i = sendByte bl .command b := by
  unfold decodeLcdCmd at h
  repeat' split at h
  all_goals cases h
  all_goals subst b; exact ⟨rfl, fun _ => rfl⟩

/-- An entry of the queue runs the events it stands for. -/
theorem runItem_next (item : Item) (s t : State) (h : runItem item s = .next t) :
    runInner (expand s.cfg.backlight item) s = .next t ∧ (∀ p, item = .prim p → primLegal p = true) := by
  cases item with
  | prim p =>
    cases p with
    | wait w => exact ⟨h, by rintro p ⟨⟩; rfl⟩
    | report => exact ⟨h, by rintro p ⟨⟩; rfl⟩
    | write place b =>
      simp only [runItem, fetch, decode] at h
      cases hd : decodePkt place b with
      | error r => simp [hd] at h
      | ok i =>
        obtain ⟨hl, hc, hi⟩ := decodePkt_ok place b i hd
        rw [hd] at h
        simp only [exec_inner i s hc, hi] at h
        exact ⟨h, by rintro p ⟨⟩; exact hl⟩
  | uop w => exact ⟨h, by simp⟩
  | lcdcmd b =>
    simp only [runItem, fetch, decode] at h
    cases hd : decodeLcdCmd b with
    | error r => simp [hd] at h
    | ok i =>
      obtain ⟨hc, hi⟩ := decodeLcdCmd_ok b i hd
      rw [hd] at h
      simp only [exec_inner i s hc, hi] at h
      exact ⟨h, by simp⟩

/-- A command word decodes to a public operation. -/
theorem decodeCommand_isCommand (w : BitVec 32) (text : List Byte) : isCommand (decodeCommand w text) = true := by
  unfold decodeCommand
  repeat' split
  all_goals rfl

/-! ## What is around exec in a step, field by field -/

@[simp] theorem State.askedNext_build (s : State) : s.askedNext.build = s.build := by
  unfold State.askedNext; split <;> simp
@[simp] theorem State.askedNext_phase (s : State) : s.askedNext.phase = s.phase := by
  unfold State.askedNext; split <;> simp
@[simp] theorem State.askedNext_cfg (s : State) : s.askedNext.cfg = s.cfg := by
  unfold State.askedNext; split <;> simp
@[simp] theorem State.askedNext_busy (s : State) : s.askedNext.busy = s.busy := by
  unfold State.askedNext; split <;> simp
@[simp] theorem State.askedNext_status (s : State) : s.askedNext.status = s.status := by
  unfold State.askedNext; split <;> simp
@[simp] theorem State.askedNext_seq (s : State) : s.askedNext.seq = s.seq := by
  unfold State.askedNext; split <;> simp
@[simp] theorem State.askedNext_tmr (s : State) : s.askedNext.tmr = s.tmr := by
  unfold State.askedNext; split <;> simp
@[simp] theorem State.askedNext_latch (s : State) : s.askedNext.latch = s.latch := by
  unfold State.askedNext; split <;> simp
@[simp] theorem State.askedNext_work (s : State) : s.askedNext.work = s.work := by
  unfold State.askedNext; split <;> simp
@[simp] theorem State.askedNext_rx (s : State) : s.askedNext.rx = s.rx := by
  unfold State.askedNext; split <;> simp
@[simp] theorem State.askedNext_cmd (s : State) : s.askedNext.cmd = s.cmd := by
  unfold State.askedNext; split <;> simp
@[simp] theorem State.askedNext_answers (s : State) : s.askedNext.answers = s.answers := by
  unfold State.askedNext; split <;> simp
@[simp] theorem State.askedNext_rst (s : State) : s.askedNext.rst = s.rst := by
  unfold State.askedNext; split <;> simp
@[simp] theorem State.askedNext_settled (s : State) : s.askedNext.settled = s.settled := by
  unfold State.askedNext; split <;> simp
@[simp] theorem State.askedNext_bus (s : State) : s.askedNext.bus = s.bus := by
  unfold State.askedNext; split <;> simp
@[simp] theorem State.askedNext_device (s : State) : s.askedNext.device = s.device := by
  unfold State.askedNext; split <;> simp
@[simp] theorem State.askedNext_sync (s : State) : s.askedNext.sync = s.sync := by
  unfold State.askedNext; split <;> simp
@[simp] theorem State.askedNext_draws (s : State) : s.askedNext.draws = s.draws := by
  unfold State.askedNext; split <;> simp
@[simp] theorem State.askedNext_trace (s : State) : s.askedNext.trace = s.trace := by
  unfold State.askedNext; split <;> simp
@[simp] theorem State.askedNext_results (s : State) : s.askedNext.results = s.results := by
  unfold State.askedNext; split <;> simp

@[simp] theorem State.transfer_build (rx : Option Rx) (n : Nat) (s : State) : (s.transfer rx n).build = s.build := rfl
@[simp] theorem State.transfer_phase (rx : Option Rx) (n : Nat) (s : State) : (s.transfer rx n).phase = s.phase := rfl
@[simp] theorem State.transfer_cfg (rx : Option Rx) (n : Nat) (s : State) : (s.transfer rx n).cfg = s.cfg := rfl
@[simp] theorem State.transfer_busy (rx : Option Rx) (n : Nat) (s : State) : (s.transfer rx n).busy = s.busy := rfl
@[simp] theorem State.transfer_status (rx : Option Rx) (n : Nat) (s : State) : (s.transfer rx n).status = s.status := rfl
@[simp] theorem State.transfer_seq (rx : Option Rx) (n : Nat) (s : State) : (s.transfer rx n).seq = s.seq := rfl
@[simp] theorem State.transfer_tmr (rx : Option Rx) (n : Nat) (s : State) : (s.transfer rx n).tmr = s.tmr := rfl
@[simp] theorem State.transfer_latch (rx : Option Rx) (n : Nat) (s : State) : (s.transfer rx n).latch = s.latch := rfl
@[simp] theorem State.transfer_work (rx : Option Rx) (n : Nat) (s : State) : (s.transfer rx n).work = s.work := rfl
@[simp] theorem State.transfer_rx (rx : Option Rx) (n : Nat) (s : State) : (s.transfer rx n).rx = rx := rfl
@[simp] theorem State.transfer_cmd (rx : Option Rx) (n : Nat) (s : State) : (s.transfer rx n).cmd = s.cmd.drop n := rfl
@[simp] theorem State.transfer_answers (rx : Option Rx) (n : Nat) (s : State) : (s.transfer rx n).answers = s.answers := rfl
@[simp] theorem State.transfer_rst (rx : Option Rx) (n : Nat) (s : State) : (s.transfer rx n).rst = rstAfter n s.rst := rfl
@[simp] theorem State.transfer_settled (rx : Option Rx) (n : Nat) (s : State) : (s.transfer rx n).settled = s.settled := rfl
@[simp] theorem State.transfer_bus (rx : Option Rx) (n : Nat) (s : State) : (s.transfer rx n).bus = s.bus := rfl
@[simp] theorem State.transfer_device (rx : Option Rx) (n : Nat) (s : State) : (s.transfer rx n).device = s.device := rfl
@[simp] theorem State.transfer_sync (rx : Option Rx) (n : Nat) (s : State) : (s.transfer rx n).sync = s.sync := rfl
@[simp] theorem State.transfer_draws (rx : Option Rx) (n : Nat) (s : State) : (s.transfer rx n).draws = s.draws := rfl
@[simp] theorem State.transfer_trace (rx : Option Rx) (n : Nat) (s : State) : (s.transfer rx n).trace = s.trace := rfl
@[simp] theorem State.transfer_results (rx : Option Rx) (n : Nat) (s : State) : (s.transfer rx n).results = s.results := rfl
@[simp] theorem State.transfer_wr (rx : Option Rx) (n : Nat) (s : State) : (s.transfer rx n).wr = s.wr := rfl

@[simp] theorem State.completed_build (s : State) : s.completed.build = s.build := by
  unfold State.completed; split <;> simp
@[simp] theorem State.completed_cfg (s : State) : s.completed.cfg = s.cfg := by
  unfold State.completed; split <;> simp
@[simp] theorem State.completed_tmr (s : State) : s.completed.tmr = s.tmr := by
  unfold State.completed; split <;> simp
@[simp] theorem State.completed_latch (s : State) : s.completed.latch = s.latch := by
  unfold State.completed; split <;> simp
@[simp] theorem State.completed_work (s : State) : s.completed.work = s.work := by
  unfold State.completed; split <;> simp
@[simp] theorem State.completed_wr (s : State) : s.completed.wr = s.wr := by
  unfold State.completed; split <;> simp
@[simp] theorem State.completed_rx (s : State) : s.completed.rx = s.rx := by
  unfold State.completed; split <;> simp
@[simp] theorem State.completed_cmd (s : State) : s.completed.cmd = s.cmd := by
  unfold State.completed; split <;> simp
@[simp] theorem State.completed_answers (s : State) : s.completed.answers = s.answers := by
  unfold State.completed; split <;> simp
@[simp] theorem State.completed_rst (s : State) : s.completed.rst = s.rst := by
  unfold State.completed; split <;> simp
@[simp] theorem State.completed_settled (s : State) : s.completed.settled = s.settled := by
  unfold State.completed; split <;> simp
@[simp] theorem State.completed_bus (s : State) : s.completed.bus = s.bus := by
  unfold State.completed; split <;> simp
@[simp] theorem State.completed_draws (s : State) : s.completed.draws = s.draws := by
  unfold State.completed; split <;> simp
@[simp] theorem State.completed_trace (s : State) : s.completed.trace = s.trace := by
  unfold State.completed; split <;> simp

/-- An entry of the queue completes the operation, or does not. -/
theorem State.completed_cases (s : State) :
    (s.busy = true ∧ s.work = [] ∧ s.completed = s.complete) ∨ ((s.busy = false ∨ s.work ≠ []) ∧ s.completed = s) := by
  unfold State.completed
  cases hb : s.busy <;> cases hw : s.work <;> simp

theorem endOfWork_next (o : Out) (t : State) (h : endOfWork o = .next t) : ∃ u, o = .next u ∧ t = u.completed := by
  cases o with
  | next u => injection h with h; exact ⟨u, rfl, h.symm⟩
  | fault f => cases f
  | refused r => cases h

/-- What the port still waits for is a word with beats missing. -/
theorem receive_partly (rx rx' : Option Rx) (offer : List (BitVec 32)) (n : Nat) (h : receive rx offer = .partly rx' n) :
    ∀ r, rx' = some r → r.got.length < textBeats r.word := by
  have key : ∀ word got before beats, takeBeats word got before beats = .partly rx' n →
      ∀ r, rx' = some r → r.got.length < textBeats r.word := by
    intro word got before beats h r hr
    simp only [takeBeats] at h
    split at h
    · cases h
    · injection h with h1 _
      rw [hr] at h1
      injection h1 with h1
      subst h1
      simp only [List.length_append, List.length_map]
      omega
  cases rx with
  | some r => exact key _ _ _ _ h
  | none =>
    cases offer with
    | nil => injection h with h1 _; subst h1; simp
    | cons w beats => exact key _ _ _ _ h

/-- A request is whole: the text has as many bytes as the word announces, if no more had come before. -/
theorem receive_request (rx : Option Rx) (offer : List (BitVec 32)) (word : BitVec 32) (text : List Byte) (n : Nat)
    (hrx : ∀ r, rx = some r → r.got.length ≤ textBeats r.word) (h : receive rx offer = .request word text n) :
    text.length = textBeats word := by
  have key : ∀ w got before beats, got.length ≤ textBeats w → takeBeats w got before beats = .request word text n →
      text.length = textBeats word := by
    intro w got before beats hg h
    simp only [takeBeats] at h
    split at h
    · injection h with h1 h2 _
      subst h1 h2
      simp only [List.length_append, List.length_map, List.length_take]
      omega
    · cases h
  cases rx with
  | some r => exact key _ _ _ _ (hrx r rfl) h
  | none =>
    cases offer with
    | nil => cases h
    | cons w beats => exact key _ _ _ _ (Nat.zero_le _) h

/-- Everything a step can do. -/
theorem step_cases (s t : State) (h : step s = .next t) :
    (s.rst.head? = some 0 ∧ t = s.askedNext.hardwareReset s.inProgress) ∨
    (s.rst.head? ≠ some 0 ∧
      ((∃ item rest u, s.work = item :: rest ∧ (∀ p, item = .prim p → primLegal p = true) ∧
          runInner (expand s.cfg.backlight item) { s with work := rest } = .next u ∧ t = u.completed) ∨
        (s.work = [] ∧ s.busy = true ∧ t = s.complete) ∨
        (s.work = [] ∧ s.busy = false ∧ ∃ rx n, (∀ r, rx = some r → r.got.length < textBeats r.word) ∧
          t = s.transfer rx n) ∨
        (s.work = [] ∧ s.busy = false ∧ ∃ w text n, decode (.cw w text) = .ok (decodeCommand w text) ∧
          exec (decodeCommand w text) (s.transfer none n) = .next t))) := by
  unfold step cycle at h
  split at h
  · next hd =>
    left
    injection h with h
    exact ⟨by simpa [State.resetDue] using hd, h.symm⟩
  · next hd =>
    right
    refine ⟨by simpa [State.resetDue] using hd, ?_⟩
    split at h
    · next item rest hw =>
      left
      obtain ⟨u, h1, h2⟩ := endOfWork_next _ _ h
      obtain ⟨h3, h4⟩ := runItem_next item _ _ h1
      exact ⟨item, rest, u, hw, h4, h3, h2⟩
    · next hw =>
      right
      split at h
      · next hb =>
        left
        injection h with h
        exact ⟨hw, hb, h.symm⟩
      · next hb =>
        right
        have hb : s.busy = false := by simpa using hb
        unfold portCycle at h
        split at h
        · next word text n _ =>
          right
          refine ⟨hw, hb, word, text, n, ?_⟩
          simp only [fetch, decode] at h ⊢
          split at h
          · next i hi =>
            split at hi
            · injection hi with hi
              subst hi
              next hlen => exact ⟨by simp [hlen], h⟩
            · exact absurd hi (by simp)
          · exact absurd h (by simp)
        · next rx n hp =>
          left
          injection h with h
          exact ⟨hw, hb, rx, n, receive_partly _ _ _ _ hp, h.symm⟩

end Sys2Proof.Machine
end

