-- ==== Sys2Proof/Laws/Outcomes.lean ====
section
/-!
SUPPORT. The outcomes of a public operation that the phase accepts, once for the three of them: run to its end (`accepted_answered`), ended
by a bus error (`accepted_err`), held by a write without an answer (`accepted_unanswered`), cut by a reset (`accepted_reset`).
-/

namespace Sys2Proof.Machine

theorem flatMap_byteTrace_length (build : Build) (bl : Bool) (m : Mode) (text : List Byte) :
    (text.flatMap (byteTrace build bl m)).length = 12 * text.length := by
  induction text with
  | nil => rfl
  | cons c text ih => simp [ih]; omega

theorem flatMap_byteTrace_writes (build : Build) (bl : Bool) (m : Mode) (text : List Byte) :
    (writesOf (text.flatMap (byteTrace build bl m))).length = 6 * text.length := by
  induction text with
  | nil => rfl
  | cons c text ih =>
    have h : (writesOf (byteTrace build bl m c)).length = 6 := rfl
    simp [writesOf_append, ih, h]; omega

theorem complete_status (s : State) (h : s.seq.op ≠ .idle) :
    s.complete.status = statusDone s.seq.op s.latch.line ∧
      s.complete.results = s.results ++ [statusDone s.seq.op s.latch.line] := by
  unfold State.complete
  split <;> simp_all

theorem complete_phase (s : State) : s.complete.phase = if s.seq.op = .construct then .ready else s.phase := by
  unfold State.complete
  split <;> simp_all

theorem acceptedIn_isCommand (i : Instr) (p : Phase) (h : acceptedIn i = some p) : isCommand i = true := by
  cases i <;> first | rfl | simp [acceptedIn] at h

theorem opOf_ne_idle (i : Instr) (p : Phase) (h : acceptedIn i = some p) : opOf i ≠ .idle := by
  cases i <;> simp_all [acceptedIn, opOf]

theorem softStatus_begun (i : Instr) (s : State) (p : Phase) (h : acceptedIn i = some p) :
    statusWord false (softError (opOf i) (begun i s).latch.line) false = softStatus i := by
  cases i with
  | construct w h b => simp only [opOf, softError, softStatus]; rfl
  | print text line =>
    by_cases h1 : line = 1#8
    · subst h1; simp only [opOf, softError, begun, State.accept, softStatus, true_or, if_true]; rfl
    · by_cases h2 : line = 2#8
      · subst h2; simp only [opOf, softError, begun, State.accept, softStatus, or_true, if_true]; rfl
      · simp [opOf, softError, begun, State.accept, lineInvalid, Config.lineByte, softStatus, h1, h2, statusWord]
  | clear => simp only [opOf, softError, softStatus]; rfl
  | _ => simp [acceptedIn] at h

theorem statusDone_begun (i : Instr) (s : State) (p : Phase) (h : acceptedIn i = some p) :
    statusDone (opOf i) (begun i s).latch.line = softStatus i := softStatus_begun i s p h

theorem statusBusError_begun (i : Instr) (s : State) (p : Phase) (h : acceptedIn i = some p) :
    statusBusError (opOf i) (begun i s).latch.line = 0b001 ||| softStatus i := by
  rw [← softStatus_begun i s p h, statusBusError]
  cases softError (opOf i) (begun i s).latch.line <;> rfl

theorem begun_events_length (i : Instr) (s : State) (p : Phase) (h : acceptedIn i = some p) :
    (begun i s).events.length = (operationTrace i s).length := by
  rw [← begun_events i s p h, List.length_map]

theorem begun_events_writes (i : Instr) (s : State) (p : Phase) (h : acceptedIn i = some p) :
    writeCount (begun i s).events = (writesOf (operationTrace i s)).length := by
  rw [writeCount_eq s.build, begun_events i s p h]

theorem exec_accepted (i : Instr) (s : State) (ha : acceptedIn i = some s.phase) (hb : s.busy = false) :
    exec i s = (begun i s).operate := by
  rw [exec_command i s (acceptedIn_isCommand i _ ha)]; simp [hb, ha]

/-- No reset inside, every write answered Ok: the operation runs its events and completes. -/
theorem accepted_answered (i : Instr) (s : State) (rest : List Answer) (ha : acceptedIn i = some s.phase) (hb : s.busy = false)
    (hq : s.Quiet (operationTrace i s).length) (han : s.Answered (writesOf (operationTrace i s)).length rest) :
    exec i s = .next (okSteps (begun i s).events (begun i s)).complete := by
  have hans : (begun i s).Answered (writeCount (begun i s).events) rest := by
    rw [begun_events_writes i s _ ha]; simpa [State.Answered] using han
  have hqu : (begun i s).Quiet (begun i s).events.length := by
    rw [begun_events_length i s _ ha]; simpa [State.Quiet] using hq
  rw [exec_accepted i s ha hb, State.operate, runPrims_answered _ _ rest hqu hans]
  rfl

/-- What such an operation leaves. -/
theorem accepted_answered_fields (i : Instr) (s : State) (rest : List Answer) (ha : acceptedIn i = some s.phase)
    (hb : s.busy = false) (hq : s.Quiet (operationTrace i s).length)
    (han : s.Answered (writesOf (operationTrace i s)).length rest) :
    ∃ t, exec i s = .next t ∧ t.trace = s.trace ++ operationTrace i s ∧ t.status = softStatus i ∧ t.busy = false ∧
      t.seq.op = .idle ∧ t.results = s.results ++ [softStatus i] ∧ t.answers = rest ∧ t.work = s.work ∧
      t.cfg = (begun i s).cfg ∧ t.latch = (begun i s).latch ∧
      t.phase = (if opOf i = .construct then .ready else s.phase) ∧
      t.rst = rstAfter (operationTrace i s).length s.rst ∧ t.build = s.build := by
  have hans : (begun i s).Answered (writeCount (begun i s).events) rest := by
    rw [begun_events_writes i s _ ha]; simpa [State.Answered] using han
  have hop : (okSteps (begun i s).events (begun i s)).seq.op = opOf i := by simp [begun_op i s _ ha]
  have hst := complete_status (okSteps (begun i s).events (begun i s)) (hop ▸ opOf_ne_idle i _ ha)
  have hsd := statusDone_begun i s _ ha
  rw [hop, okSteps_latch, hsd] at hst
  refine ⟨_, accepted_answered i s rest ha hb hq han, ?_, hst.1, State.complete_busy _, by rw [State.complete_seq]; rfl, ?_,
    by simpa using okSteps_answers_of _ _ _ hans, by simp, by simp, by simp, ?_, ?_, by simp⟩
  · simp [begun_events i s _ ha]
  · rw [hst.2]; simp
  · rw [complete_phase, hop]; simp
  · simp [okSteps_rst, begun_events_length i s _ ha]

/-- A write answered Err ends the operation at that write. -/
theorem accepted_err (i : Instr) (s : State) (pre post : List Prim) (pl : Place) (b : Byte) (rest : List Answer)
    (ha : acceptedIn i = some s.phase) (hb : s.busy = false) (hps : (begun i s).events = pre ++ .write pl b :: post)
    (hq : s.Quiet (pre.length + 1)) (han : s.AnsweredErr (writeCount pre) rest) :
    exec i s = .next ((okSteps pre (begun i s)).failed b) := by
  rw [exec_accepted i s ha hb, State.operate, hps,
    runPrims_err pre post pl b (begun i s) rest (by simpa [State.Quiet] using hq) (by simpa [State.AnsweredErr] using han)]
  rfl

/-- A write that is not answered holds the operation there. -/
theorem accepted_unanswered (i : Instr) (s : State) (pre post : List Prim) (pl : Place) (b : Byte)
    (ha : acceptedIn i = some s.phase) (hb : s.busy = false) (hps : (begun i s).events = pre ++ .write pl b :: post)
    (hq : s.Quiet (pre.length + 1)) (han : s.Answered (writeCount pre) []) :
    exec i s = .next { okSteps pre (begun i s) with
      wr := some b, work := (Prim.write pl b :: post).map Item.prim ++ s.work } := by
  rw [exec_accepted i s ha hb, State.operate, hps,
    runPrims_unanswered pre post pl b (begun i s) (by simpa [State.Quiet] using hq) (by simpa [State.Answered] using han)]
  simp [Run.finish]

/-- A reset cuts the operation off before the event at which it is due. -/
theorem accepted_reset (i : Instr) (s : State) (pre post : List Prim) (p : Prim) (later : List Nat) (rest : List Answer)
    (ha : acceptedIn i = some s.phase) (hb : s.busy = false) (hps : (begun i s).events = pre ++ p :: post)
    (hr : s.rst = pre.length :: later) (han : s.Answered (writeCount pre) rest) :
    exec i s = .next (((okSteps pre (begun i s)).asked p).hardwareReset true) := by
  rw [exec_accepted i s ha hb, State.operate, hps,
    runPrims_reset pre post p (begun i s) later rest (by simpa using hr) (by simpa [State.Answered] using han)]
  rfl

end Sys2Proof.Machine
end

