-- ==== Sys2Proof/Laws/PerInstr.lean ====
section
/-!
SUPPORT. For every instruction as syntax: its encoding is a word of its row's format with the bits that spec/opcode_table.json fixes for the
row ("fixed": hi, lo, value), and its operands in the row's fields.
-/

namespace Sys2Proof.Laws.TableBits

open Sys2Proof

/-- The row's fixed bits and fields in the encoding of the instruction. -/
def Statement : Instr → Prop
  | .construct w h b => ∃ word, encode (.construct w h b) = .cw word [] ∧ word.extractLsb' 30 2 = 0
  | .print text line => ∃ word, encode (.print text line) = .cw word text ∧ word.extractLsb' 30 2 = 1
  | .clear => ∃ word, encode .clear = .cw word [] ∧ word.extractLsb' 30 2 = 2
  | .cwReserved p => ∃ word, encode (.cwReserved p) = .cw word [] ∧ word.extractLsb' 30 2 = 3
  | .sendbyte m v => ∃ word, encode (.sendbyte m v) = .uop word ∧ word.getLsbD 8 = m.bit ∧ word.extractLsb' 0 8 = v
  | .pktPresent d b r => ∃ byte, encode (.pktPresent d b r) = .pkt .present byte ∧ byte.extractLsb' 1 2 = 0 ∧
      byte.extractLsb' 4 4 = d ∧ byte.getLsbD 3 = b ∧ byte.getLsbD 0 = r.bit
  | .pktEset d b r => ∃ byte, encode (.pktEset d b r) = .pkt .eset byte ∧ byte.extractLsb' 1 2 = 2 ∧
      byte.extractLsb' 4 4 = d ∧ byte.getLsbD 3 = b ∧ byte.getLsbD 0 = r.bit
  | .pktEclr d b r => ∃ byte, encode (.pktEclr d b r) = .pkt .eclr byte ∧ byte.extractLsb' 1 2 = 0 ∧
      byte.extractLsb' 4 4 = d ∧ byte.getLsbD 3 = b ∧ byte.getLsbD 0 = r.bit
  | .lcdReset4 => encode .lcdReset4 = .lcdcmd 51
  | .lcdSet4 => encode .lcdSet4 = .lcdcmd 50
  | .lcdEntry => encode .lcdEntry = .lcdcmd 6
  | .lcdDispon => encode .lcdDispon = .lcdcmd 12
  | .lcdFunc => encode .lcdFunc = .lcdcmd 40
  | .lcdClear => encode .lcdClear = .lcdcmd 1
  | .lcdLine1 => encode .lcdLine1 = .lcdcmd 128
  | .lcdLine2 => encode .lcdLine2 = .lcdcmd 192

/-- The top two bits of a 32-bit word put together from the top. -/
theorem top_two (a : BitVec 2) (b : BitVec 30) : (a ++ b).extractLsb' 30 2 = a := by
  apply BitVec.eq_of_getLsbD_eq
  intro k hk
  rw [BitVec.getLsbD_extractLsb', BitVec.getLsbD_append]
  simp [hk]

theorem construct (width height : BitVec 8) (backlight : Bool) : Statement (.construct width height backlight) := by
  refine ⟨_, rfl, ?_⟩
  apply BitVec.eq_of_getLsbD_eq
  intro k hk
  have : k = 0 ∨ k = 1 := by omega
  rcases this with rfl | rfl <;> rw [BitVec.getLsbD_extractLsb'] <;> simp only [BitVec.getLsbD_append] <;> simp

theorem print (text : List Byte) (line : BitVec 8) : Statement (.print text line) := by
  refine ⟨_, rfl, ?_⟩
  apply BitVec.eq_of_getLsbD_eq
  intro k hk
  have : k = 0 ∨ k = 1 := by omega
  rcases this with rfl | rfl <;> rw [BitVec.getLsbD_extractLsb'] <;> simp only [BitVec.getLsbD_append] <;> simp

theorem clear : Statement .clear := ⟨_, rfl, top_two _ _⟩

theorem cwReserved (payload : BitVec 30) : Statement (.cwReserved payload) := ⟨_, rfl, top_two _ _⟩

theorem sendbyte (mode : Mode) (value : Byte) : Statement (.sendbyte mode value) := by
  refine ⟨_, rfl, ?_, ?_⟩
  · simp only [BitVec.getLsbD_append]; cases mode <;> simp [Mode.bit]
  · apply BitVec.eq_of_getLsbD_eq
    intro k hk
    rw [BitVec.getLsbD_extractLsb', BitVec.getLsbD_append]
    simp [hk]

/-- The fields of a packet byte stand where R81 puts them. -/
theorem pktByte_fields (d : Nibble) (b e : Bool) (r : Mode) :
    (pktByte d b e r).extractLsb' 1 2 = BitVec.ofBool e ++ 0#1 ∧ (pktByte d b e r).extractLsb' 4 4 = d ∧
      (pktByte d b e r).getLsbD 3 = b ∧ (pktByte d b e r).getLsbD 0 = r.bit := by
  revert d; cases b <;> cases e <;> cases r <;> decide

theorem pktPresent (d : Nibble) (b : Bool) (r : Mode) : Statement (.pktPresent d b r) := by
  obtain ⟨h1, h2⟩ := pktByte_fields d b false r
  exact ⟨_, rfl, h1, h2⟩

theorem pktEset (d : Nibble) (b : Bool) (r : Mode) : Statement (.pktEset d b r) := by
  obtain ⟨h1, h2⟩ := pktByte_fields d b true r
  exact ⟨_, rfl, h1, h2⟩

theorem pktEclr (d : Nibble) (b : Bool) (r : Mode) : Statement (.pktEclr d b r) := by
  obtain ⟨h1, h2⟩ := pktByte_fields d b false r
  exact ⟨_, rfl, h1, h2⟩

theorem lcdReset4 : Statement .lcdReset4 := rfl

theorem lcdSet4 : Statement .lcdSet4 := rfl

theorem lcdEntry : Statement .lcdEntry := rfl

theorem lcdDispon : Statement .lcdDispon := rfl

theorem lcdFunc : Statement .lcdFunc := rfl

theorem lcdClear : Statement .lcdClear := rfl

theorem lcdLine1 : Statement .lcdLine1 := rfl

theorem lcdLine2 : Statement .lcdLine2 := rfl

end Sys2Proof.Laws.TableBits
end

