-- ==== Sys2Proof/Tests/Slice0.lean ====
section
/-!
SUPPORT. Tests of single steps, their expected results taken from spec/95_test_vectors.md and from the encodings of spec/30_encoding.md, and, for
each statement that has hypotheses, values that meet them.
-/

namespace Sys2Proof.Tests

open Sys2Proof Sys2Proof.Machine

/-! ## Helpers -/

/-- The machine with the answers to come. -/
def answering (answers : List Answer) (s : State) : State := { s with answers := answers }

/-- So many answers Ok. -/
def oks (n : Nat) : List Answer := List.replicate n .ok

/-- After reset, `n` answers Ok to come. -/
def fresh (n : Nat) : State := answering (oks n) State.reset

/-- In Ready with geometry 16 by 2, `n` answers Ok to come. -/
def ready (backlight : Bool) (n : Nat) : State :=
  { fresh n with phase := .ready, cfg := { width := 16, height := 2, backlight := backlight }, sync := .inStep }

/-- The host offers these transfers. -/
def offering (cmd : List (BitVec 32)) (s : State) : State := { s with cmd := cmd }

/-- Reset rises after these numbers of events and transfers. -/
def resetAt (rst : List Nat) (s : State) : State := { s with rst := rst }

/-- CLEAR in progress with these entries left. -/
def clearing (work : List Item) (n : Nat) : State :=
  { ready true n with busy := true, seq := seqStart .clear 0, work := work }

/-- The state an outcome leads to. -/
def after (o : Out) : State := (outState o).getD State.reset

theorem next_after (o : Out) (h : (outState o).isSome = true) : o = .next (after o) := by
  cases o <;> simp_all [outState, after]

/-- The display is at a clear command; whether it is given its time before the next byte. -/
def cleared (given : Bool) (s : State) : State :=
  { s with device := { half := none, cursor := .home 0, busy := true }, settled := [given] }

theorem quiet_nil {n : Nat} {s : State} (h : s.rst = []) : s.Quiet n := by
  intro k hk; simp [h] at hk

theorem quiet_cons {n k : Nat} {ks : List Nat} {s : State} (h : s.rst = k :: ks) (hn : n ≤ k) : s.Quiet n := by
  intro j hj; simp [h] at hj; omega

/-! ## Well-formedness: the one check there is -/

theorem test_text_too_long_ill_formed : ¬ WellFormed (.print (List.replicate 65536 0x41) 1) := by
  rw [WellFormed, Instr.wellFormed, List.length_replicate]
  decide

theorem test_text_longest_well_formed : WellFormed (.print (List.replicate 65535 0x41) 1) := by
  rw [WellFormed, Instr.wellFormed, List.length_replicate]
  decide

/-! ## Decoding, of words written out from 30_encoding.md -/

/-- R90: 00, thirteen ignored bits, bit 16 the backlight, height, width. -/
theorem test_decode_construct :
    decode (.cw 0b00_0000000000000_1_00000010_00010000 []) = .ok (.construct 16 2 true) := by decide

/-- R90: the ignored bits set, the backlight off. -/
theorem test_decode_construct_ignored :
    decode (.cw 0b00_1111111111111_0_00000100_00010100 []) = .ok (.construct 20 4 false) := by decide

/-- R91: 01, six ignored bits, sixteen bits of length, line. -/
theorem test_decode_print :
    decode (.cw 0b01_000000_0000000000000010_00000001 [0x48, 0x69]) = .ok (.print [0x48, 0x69] 1) := by decide

/-- R91: one beat too few is no whole request. -/
theorem test_decode_print_short :
    decode (.cw 0b01_000000_0000000000000010_00000001 [0x48]) = .error .textLength := by decide

/-- R92. -/
theorem test_decode_clear : decode (.cw 0b10_000000000000000000000000000000 []) = .ok .clear := by decide

/-- R94. -/
theorem test_decode_cwReserved : decode (.cw 0b11_000000000000000000000000000101 []) = .ok (.cwReserved 5) := by decide

/-- R88: bit 8 the mode. -/
theorem test_decode_sendbyte_data : decode (.uop 0b1_01000001) = .ok (.sendbyte .data 0x41) := by decide
theorem test_decode_sendbyte_command : decode (.uop 0b0_01011010) = .ok (.sendbyte .command 0x5A) := by decide

/-- R81: d, b, e, 0, r. -/
theorem test_decode_pktPresent : decode (.pkt .present 0b0100_1_0_0_1) = .ok (.pktPresent 4 true .data) := by decide
theorem test_decode_pktEset : decode (.pkt .eset 0b0011_0_1_0_0) = .ok (.pktEset 3 false .command) := by decide
theorem test_decode_pktEclr : decode (.pkt .eclr 0b1111_1_0_0_0) = .ok (.pktEclr 15 true .command) := by decide

/-- R94: the R/W bit is never set; R81: Enable belongs to the second write. -/
theorem test_decode_pkt_readWrite : decode (.pkt .present 0b0100_1_0_1_1) = .error .readWriteSet := by decide
theorem test_decode_pkt_enable : decode (.pkt .eclr 0b0100_1_1_0_1) = .error .enableOutOfPlace := by decide

/-- R87. -/
theorem test_decode_lcdReset4 : decode (.lcdcmd 0b00110011) = .ok .lcdReset4 := by decide
theorem test_decode_lcdSet4 : decode (.lcdcmd 0b00110010) = .ok .lcdSet4 := by decide
theorem test_decode_lcdEntry : decode (.lcdcmd 0b00000110) = .ok .lcdEntry := by decide
theorem test_decode_lcdDispon : decode (.lcdcmd 0b00001100) = .ok .lcdDispon := by decide
theorem test_decode_lcdFunc : decode (.lcdcmd 0b00101000) = .ok .lcdFunc := by decide
theorem test_decode_lcdClear : decode (.lcdcmd 0b00000001) = .ok .lcdClear := by decide
theorem test_decode_lcdLine1 : decode (.lcdcmd 0b10000000) = .ok .lcdLine1 := by decide
theorem test_decode_lcdLine2 : decode (.lcdcmd 0b11000000) = .ok .lcdLine2 := by decide
theorem test_decode_lcd_other : decode (.lcdcmd 0b00000010) = .error .notACommandByte := by decide

/-- A row of the table in the table's own numbering: a word of each format. -/
theorem test_table_words :
    decodeTableWord 32 0x00010210 = some (.construct 16 2 true) ∧ decodeTableWord 32 0x40000301 = some (.print [0, 0, 0] 1) ∧
    decodeTableWord 9 0x141 = some (.sendbyte .data 0x41) ∧ decodeTableWord 16 0x141 = some (.sendbyte .data 0x41) ∧
    decodeTableWord 8 0x4D = some (.pktEset 4 true .data) ∧ decodeTableWord 8 0x49 = some (.pktPresent 4 true .data) ∧
    decodeTableWord 8 0x28 = some .lcdFunc ∧ decodeTableWord 8 0x02 = none := by decide

/-- A placed word is what the next step runs, the first after reset: V50's CONSTRUCT begins, its power-up wait first. -/
theorem test_placed_construct :
    (after (step (State.reset.withFetchWord 32 0x00010210))).trace = [.waitMs 50] ∧
    (after (step (State.reset.withFetchWord 32 0x00010210))).wr = some 0x38 := by decide

theorem test_placed_print : (after (step (State.reset.withFetchWord 32 0x40000101))).status = 0b100 := by decide

/-! ## One step, against the vectors -/

/-- V40: the 36 writes, Ready, 0b000. -/
theorem test_construct_writes :
    writesOf (after (step (offering [0x00010210] (fresh 36)))).trace =
      [0x38, 0x3C, 0x38, 0x38, 0x3C, 0x38, 0x38, 0x3C, 0x38, 0x28, 0x2C, 0x28, 0x08, 0x0C, 0x08, 0x68, 0x6C, 0x68] ++
      [0x08, 0x0C, 0x08, 0xC8, 0xCC, 0xC8, 0x28, 0x2C, 0x28, 0x88, 0x8C, 0x88, 0x08, 0x0C, 0x08, 0x18, 0x1C, 0x18] := by
  decide +kernel

/-- V39: the eighth write answered Err: 16 events, 0b001, still Uninitialized. -/
theorem test_construct_error :
    (after (step (offering [0x00010210] (answering (oks 7 ++ [.err]) State.reset)))).trace.length = 16 ∧
    (after (step (offering [0x00010210] (answering (oks 7 ++ [.err]) State.reset)))).status = 0b001 ∧
    (after (step (offering [0x00010210] (answering (oks 7 ++ [.err]) State.reset)))).phase = .uninitialized := by
  decide

/-- V41. -/
theorem test_print_writes :
    writesOf (after (step (offering [0x40000201, 0x48, 0x69] (ready true 18)))).trace =
      [0x88, 0x8C, 0x88, 0x08, 0x0C, 0x08, 0x49, 0x4D, 0x49, 0x89, 0x8D, 0x89, 0x69, 0x6D, 0x69, 0x99, 0x9D, 0x99] := by
  decide +kernel

/-- V43 with the fourth write answered Err. -/
theorem test_print_invalid_line_error :
    (after (step (offering [0x40000103, 0x41] (answering (oks 3 ++ [.err]) (ready true 0))))).trace =
      [.invalidLine, .write 0x49 .ok, .wait 1, .write 0x4D .ok, .wait 1, .write 0x49 .ok, .wait 1, .write 0x19 .err] ∧
    (after (step (offering [0x40000103, 0x41] (answering (oks 3 ++ [.err]) (ready true 0))))).status = 0b011 := by
  decide

/-- V20. -/
theorem test_clear_events :
    (after (step (offering [0x80000000] (ready true 6)))).trace =
      [.write 0x08 .ok, .wait 1, .write 0x0C .ok, .wait 1, .write 0x08 .ok, .wait 1,
        .write 0x18 .ok, .wait 1, .write 0x1C .ok, .wait 1, .write 0x18 .ok, .wait 1] := by
  decide

/-- V35. -/
theorem test_clear_error :
    (after (exec .clear (answering (oks 3 ++ [.err]) (ready true 0)))).trace =
      [.write 0x08 .ok, .wait 1, .write 0x0C .ok, .wait 1, .write 0x08 .ok, .wait 1, .write 0x18 .err] ∧
    (after (exec .clear (answering (oks 3 ++ [.err]) (ready true 0)))).status = 0b001 ∧
    (after (exec .clear (answering (oks 3 ++ [.err]) (ready true 0)))).phase = .ready := by
  decide

/-- R225, and V48 to V50: the refusals, the beat of a refused PRINT dropped. -/
theorem test_refusals :
    (after (step (offering [0xC0000000] (ready true 6)))).status = 0b100 ∧
    (after (step (offering [0x40000101, 0x41, 0x80000000] (fresh 6)))).cmd = [0x80000000] ∧
    (after (step (offering [0x40000101, 0x41] (fresh 6)))).status = 0b100 ∧
    (after (step (offering [0x80000000] (fresh 6)))).status = 0b100 ∧
    (after (step (offering [0x00010414] (ready true 36)))).status = 0b100 ∧
    (after (step (offering [0x00010414] (ready true 36)))).trace = [] ∧
    (after (step (offering [0x00010414] (ready true 36)))).cfg.width = 16 := by
  decide

/-- V9 and V14. -/
theorem test_sendbyte_data :
    writesOf (after (exec (.sendbyte .data 0x41) (ready true 6))).trace = [0x49, 0x4D, 0x49, 0x19, 0x1D, 0x19] := by decide
theorem test_sendbyte_command :
    writesOf (after (exec (.sendbyte .command 0x5A) (ready false 6))).trace = [0x50, 0x54, 0x50, 0xA0, 0xA4, 0xA0] := by
  decide

/-- V22, write by write. -/
theorem test_pktPresent : (after (exec (.pktPresent 4 true .data) (ready true 1))).trace = [.write 0x49 .ok] := by decide
theorem test_pktEset : (after (exec (.pktEset 4 true .data) (ready true 1))).trace = [.write 0x4D .ok] := by decide
theorem test_pktEclr : (after (exec (.pktEclr 4 true .data) (ready true 1))).trace = [.write 0x49 .ok] := by decide

/-- The groups of V40, its backlight-off table, V18 and V19. -/
theorem test_lcdReset4 :
    writesOf (after (exec .lcdReset4 (ready true 6))).trace = [0x38, 0x3C, 0x38, 0x38, 0x3C, 0x38] := by decide
theorem test_lcdSet4 :
    writesOf (after (exec .lcdSet4 (ready false 6))).trace = [0x30, 0x34, 0x30, 0x20, 0x24, 0x20] := by decide
theorem test_lcdEntry :
    writesOf (after (exec .lcdEntry (ready true 6))).trace = [0x08, 0x0C, 0x08, 0x68, 0x6C, 0x68] := by decide
theorem test_lcdDispon :
    writesOf (after (exec .lcdDispon (ready false 6))).trace = [0x00, 0x04, 0x00, 0xC0, 0xC4, 0xC0] := by decide
theorem test_lcdFunc :
    writesOf (after (exec .lcdFunc (ready true 6))).trace = [0x28, 0x2C, 0x28, 0x88, 0x8C, 0x88] := by decide
theorem test_lcdClear :
    writesOf (after (exec .lcdClear (ready false 6))).trace = [0x00, 0x04, 0x00, 0x10, 0x14, 0x10] := by decide
theorem test_lcdLine1 :
    writesOf (after (exec .lcdLine1 (ready true 6))).trace = [0x88, 0x8C, 0x88, 0x08, 0x0C, 0x08] := by decide
theorem test_lcdLine2 :
    writesOf (after (exec .lcdLine2 (ready false 6))).trace = [0xC0, 0xC4, 0xC0, 0x00, 0x04, 0x00] := by decide

/-- R70's example: `lcd_nibbles(49 4D 49 19 1D 19)` is `(1,4) (1,1)`. -/
theorem test_lcdView : lcdView [0x49, 0x4D, 0x49, 0x19, 0x1D, 0x19] = [(.data, 0x41)] := by decide

/-- R242: reset after four events of a CLEAR. -/
theorem test_reset_cuts :
    (after (exec .clear (resetAt [4] (ready true 6)))).trace = [.write 0x08 .ok, .wait 1, .write 0x0C .ok, .wait 1] ∧
    (after (exec .clear (resetAt [4] (ready true 6)))).phase = .uninitialized := by
  decide

/-- R261: with a reset between a refused CONSTRUCT and the next word, the port takes the first only, and the reset is due. -/
theorem test_reset_between_words :
    (after (step (resetAt [1] (offering [0x00010210, 0x00010210] (ready true 0))))).results = [0b100] ∧
    (after (step (resetAt [1] (offering [0x00010210, 0x00010210] (ready true 0))))).cmd = [0x00010210] ∧
    (after (step (resetAt [1] (offering [0x00010210, 0x00010210] (ready true 0))))).rst = [0] := by
  decide

/-- R247 and U7: a byte that reaches the display at its clear command is a fault of the display; given its time, it is none; the block's own
trace is the same. -/
theorem test_display_at_clear :
    (after (exec .clear (cleared false (ready true 6)))).sync = .lost ∧
    (after (exec .clear (cleared true (ready true 6)))).sync = .inStep ∧
    (after (exec .clear (cleared false (ready true 6)))).trace = (after (exec .clear (cleared true (ready true 6)))).trace := by
  decide

/-- R113: the last event of a CONSTRUCT that was held up completes it, in the same step. -/
theorem test_last_event_completes :
    (after (step { State.reset with busy := true, seq := seqStart .construct 0, work := [.prim (.wait .eDelay)] })).phase =
      .ready ∧
    (after (step { State.reset with busy := true, seq := seqStart .construct 0, work := [.prim (.wait .eDelay)] })).results =
      [0b000] := by
  decide

/-! ## Values that meet the hypotheses of the statements, at boundaries where there are any -/

theorem witness_DecodeOfEncode :
    WellFormed (.print (List.replicate 65535 0x41) 255) ∧ WellFormed (.print [] 0) ∧ WellFormed (.cwReserved 0x3FFFFFFF) := by
  refine ⟨?_, by decide, by decide⟩
  rw [WellFormed, Instr.wellFormed, List.length_replicate]
  decide

theorem witness_EncodeOfDecodeInternal :
    decode (.uop 511) = .ok (.sendbyte .data 0xFF) ∧ decode (.lcdcmd 0xC0) = .ok .lcdLine2 ∧
    decode (.pkt .eset 0xFD) = .ok (.pktEset 15 true .data) := by decide

theorem witness_CommandWordFields : ∃ (len : BitVec 16) (text : List Byte), text.length = len.toNat ∧ len = 65535 := by
  refine ⟨65535, List.replicate 65535 0, ?_, rfl⟩
  rw [List.length_replicate]; decide

theorem witness_ReservedWordsRejected : (0x02 : Byte).getLsbD 1 = true := by decide

/-- A PRINT with its beats and the next word behind it, a reset due just after the last beat; and a CLEAR, which has no beats. -/
theorem witness_StepRunsCommandWord :
    (∃ (s : State) (w : BitVec 32) (beats rest : List (BitVec 32)) (i : Instr),
      s.Quiet (1 + beats.length) ∧ s.work = [] ∧ s.busy = false ∧ s.rx = none ∧ s.cmd = w :: beats ++ rest ∧
      beats.length = textBeats w ∧ decode (.cw w (beats.map (BitVec.extractLsb' 0 8))) = .ok i ∧ beats ≠ []) ∧
    (∃ (s : State) (w : BitVec 32) (i : Instr),
      s.Quiet 1 ∧ s.work = [] ∧ s.busy = false ∧ s.rx = none ∧ s.cmd = w :: [] ++ [] ∧
      ([] : List (BitVec 32)).length = textBeats w ∧ decode (.cw w []) = .ok i) :=
  ⟨⟨resetAt [3] (offering [0x40000201, 0x48, 0x69, 0x80000000] (ready true 18)), 0x40000201, [0x48, 0x69], [0x80000000],
      .print [0x48, 0x69] 1, quiet_cons rfl (by decide), by decide⟩,
    ⟨offering [0x80000000] (ready true 6), 0x80000000, .clear, quiet_nil rfl, by decide⟩⟩

theorem witness_StepRunsQueuedWord :
    (∃ s : State, s.rst.head? ≠ some 0 ∧ s.work = .uop 0x141 :: [] ∧ decode (.uop 0x141) = .ok (.sendbyte .data 0x41)) ∧
    (∃ s : State, s.rst.head? ≠ some 0 ∧ s.work = .lcdcmd 0x01 :: [] ∧ decode (.lcdcmd 0x01) = .ok .lcdClear) ∧
    (∃ s : State, s.rst.head? ≠ some 0 ∧ s.work = .prim (.write .eset 0x4D) :: [] ∧
      decode (.pkt .eset 0x4D) = .ok (.pktEset 4 true .data)) :=
  ⟨⟨clearing [.uop 0x141] 6, by decide⟩, ⟨clearing [.lcdcmd 0x01] 6, by decide⟩,
    ⟨clearing [.prim (.write .eset 0x4D)] 1, by decide⟩⟩

/-- A word of two beats: with it one of them; one of them here and the other still missing; the other just come. -/
theorem witness_BeatsGatherAcrossSteps :
    (∃ (s : State) (w : BitVec 32) (beats : List (BitVec 32)), s.work = [] ∧ s.busy = false ∧ s.rx = none ∧
      s.cmd = w :: beats ∧ beats.length < textBeats w ∧ beats ≠ [] ∧ s.Quiet (1 + beats.length)) ∧
    (∃ (s : State) (w : BitVec 32) (got : List Byte), s.rst.head? ≠ some 0 ∧ s.work = [] ∧ s.busy = false ∧
      s.rx = some { word := w, got := got } ∧ got.length + s.cmd.length < textBeats w ∧ s.Quiet s.cmd.length) ∧
    (∃ (s : State) (w : BitVec 32) (got : List Byte) (beats rest : List (BitVec 32)) (i : Instr),
      s.rst.head? ≠ some 0 ∧ s.work = [] ∧ s.busy = false ∧ s.rx = some { word := w, got := got } ∧
      s.cmd = beats ++ rest ∧ got.length + beats.length = textBeats w ∧
      decode (.cw w (got ++ beats.map (BitVec.extractLsb' 0 8))) = .ok i ∧ s.Quiet beats.length) :=
  ⟨⟨resetAt [2] (offering [0x40000201, 0x48] (ready true 18)), 0x40000201, [0x48], by decide, by decide, by decide, by decide,
      by decide, by decide, quiet_cons rfl (by decide)⟩,
    ⟨{ ready true 18 with rx := some { word := 0x40000201, got := [0x48] } }, 0x40000201, [0x48], by decide, by decide,
      by decide, by decide, by decide, quiet_nil rfl⟩,
    ⟨resetAt [1] { ready true 18 with rx := some { word := 0x40000201, got := [0x48] }, cmd := [0x69] }, 0x40000201, [0x48],
      [0x69], [], .print [0x48, 0x69] 1, by decide, by decide, by decide, by decide, by decide, by decide, by decide,
      quiet_cons rfl (by decide)⟩⟩

theorem witness_StepTakesReset :
    (∃ s : State, s.rst.head? = some 0 ∧ s.wr = none ∧ s.inProgress = false) ∧
    (∃ s : State, s.rst.head? = some 0 ∧ s.wr ≠ none ∧ s.inProgress = true) ∧
    (∃ s : State, s.rst.head? = some 0 ∧ s.wr = none ∧ s.work ≠ []) :=
  ⟨⟨resetAt [0] (ready true 0), by decide⟩,
    ⟨{ resetAt [0] (clearing [.prim (.write .present 0x08)] 0) with wr := some 0x08 }, by decide⟩,
    ⟨resetAt [0] (clearing [.lcdcmd 0x01] 0), by decide⟩⟩

theorem witness_IdleBlockDoesNothing :
    ∃ s : State, s.rst.head? ≠ some 0 ∧ s.work = [] ∧ s.busy = false ∧ s.rx = none ∧ s.cmd = [] := ⟨State.reset, by decide⟩

theorem witness_BusyPortTakesNothing : ∃ s t : State, s.busy = true ∧ step s = .next t ∧ s.cmd ≠ [] :=
  ⟨offering [0x80000000] (clearing [] 0), _, by decide, next_after _ (by decide), by decide⟩

theorem witness_UnansweredWriteHolds : ∃ (s : State) (place : Place) (b : Byte) (rest : List Item),
    s.rst.head? ≠ some 0 ∧ s.work = .prim (.write place b) :: rest ∧ primLegal (.write place b) = true ∧ s.answers = [] :=
  ⟨clearing [.prim (.write .eclr 0x08)] 0, .eclr, 0x08, [], by decide⟩

theorem witness_ConstructSucceeds : ∃ (s : State) (rest : List Answer),
    s.phase = .uninitialized ∧ s.busy = false ∧ s.Quiet 73 ∧ s.Answered 36 rest :=
  ⟨resetAt [73] (fresh 37), [.ok], by decide, by decide, quiet_cons rfl (by decide), by decide⟩

theorem witness_ConstructIgnoresGeometry : ∃ s t t' : State,
    exec (.construct 0 0 true) s = .next t ∧ exec (.construct 255 255 true) s = .next t' :=
  ⟨fresh 36, _, _, next_after _ (by decide), next_after _ (by decide)⟩

/-- Both lines that have an address byte. -/
theorem witness_PrintValidLine :
    (∃ (s : State) (text : List Byte) (rest : List Answer), s.phase = .ready ∧ s.busy = false ∧
      s.Quiet (12 * (1 + text.length)) ∧ s.Answered (6 * (1 + text.length)) rest ∧ text.length = 2) ∧
    ((1 : BitVec 8) = 1#8 ∧ (0x80 : Byte) = 0x80 ∨ (1 : BitVec 8) = 2#8 ∧ (0x80 : Byte) = 0xC0) ∧
    ((2 : BitVec 8) = 1#8 ∧ (0xC0 : Byte) = 0x80 ∨ (2 : BitVec 8) = 2#8 ∧ (0xC0 : Byte) = 0xC0) :=
  ⟨⟨resetAt [36] (ready true 18), [0x48, 0x69], [], by decide, by decide, quiet_cons rfl (by decide), by decide, by decide⟩,
    by decide, by decide⟩

/-- The lines 0, 3 and 255, and the empty text. -/
theorem witness_PrintInvalidLine :
    (∃ (s : State) (text : List Byte) (rest : List Answer), s.phase = .ready ∧ s.busy = false ∧
      s.Quiet (1 + 12 * text.length) ∧ s.Answered (6 * text.length) rest ∧ text = []) ∧
    (0 : BitVec 8) ≠ 1#8 ∧ (0 : BitVec 8) ≠ 2#8 ∧ (3 : BitVec 8) ≠ 1#8 ∧ (3 : BitVec 8) ≠ 2#8 ∧
    (255 : BitVec 8) ≠ 1#8 ∧ (255 : BitVec 8) ≠ 2#8 :=
  ⟨⟨resetAt [1] (ready true 0), [], [], by decide, by decide, quiet_cons rfl (by decide), by decide, by decide⟩, by decide⟩

theorem witness_ClearSucceeds : ∃ (s : State) (rest : List Answer),
    s.phase = .ready ∧ s.busy = false ∧ s.Quiet 12 ∧ s.Answered 6 rest :=
  ⟨resetAt [12] (ready true 6), [], by decide, by decide, quiet_cons rfl (by decide), by decide⟩

theorem witness_OperationsRepeat :
    (∃ (s : State) (rest : List Answer), s.phase = .ready ∧ s.busy = false ∧ s.Quiet 24 ∧ s.Answered 12 rest) ∧
    (∃ (i : Instr) (s s' t t' : State), isCommand i = true ∧ s'.phase = s.phase ∧ s'.busy = s.busy ∧
      s'.cfg.backlight = s.cfg.backlight ∧ s'.build = s.build ∧ s'.answers = s.answers ∧ s'.rst = s.rst ∧
      exec i s = .next t ∧ exec i s' = .next t' ∧ s'.cfg.width ≠ s.cfg.width ∧ s'.trace ≠ s.trace) :=
  ⟨⟨resetAt [24] (ready true 12), [], by decide, by decide, quiet_cons rfl (by decide), by decide⟩,
    ⟨.clear, ready true 6,
      { ready true 6 with cfg := { width := 20, height := 4, backlight := true }, trace := [.waitMs 50] }, _, _,
      by decide, by decide, by decide, by decide, by decide, by decide, by decide,
      next_after _ (by decide), next_after _ (by decide), by decide, by decide⟩⟩

/-- Each row of the gating table that refuses, the reserved word in either phase, and a refused PRINT with one beat. -/
theorem witness_RefusedInWrongPhase :
    (isCommand (.print [0x41] 1) = true ∧ (fresh 6).busy = false ∧ acceptedIn (.print [0x41] 1) ≠ some (fresh 6).phase) ∧
    (acceptedIn .clear ≠ some (fresh 6).phase ∧ acceptedIn (.cwReserved 0) ≠ some (fresh 6).phase) ∧
    (acceptedIn (.construct 16 2 true) ≠ some (ready true 36).phase ∧ acceptedIn (.cwReserved 0) ≠ some (ready true 36).phase) ∧
    (∃ (s : State) (w : BitVec 32) (beats rest : List (BitVec 32)),
      s.Quiet (1 + beats.length) ∧ s.work = [] ∧ s.busy = false ∧ s.rx = none ∧ s.phase = .uninitialized ∧
      w.extractLsb' 30 2 = 0b01 ∧ s.cmd = w :: beats ++ rest ∧ beats.length = (w.extractLsb' 8 16).toNat) :=
  ⟨by decide, by decide, by decide,
    ⟨resetAt [2] (offering [0x40000101, 0x41] (fresh 6)), 0x40000101, [0x41], [], quiet_cons rfl (by decide), by decide⟩⟩

theorem witness_BusyCommandIgnored : isCommand .clear = true ∧ (clearing [] 0).busy = true := by decide

/-- The first and the last write of each operation. -/
theorem witness_BusErrorEndsOperation :
    (∃ (s : State) (k : Nat) (rest : List Answer), acceptedIn (.construct 16 2 true) = some s.phase ∧ s.busy = false ∧
      s.Quiet (operationTrace (.construct 16 2 true) s).length ∧ k < (writesOf (operationTrace (.construct 16 2 true) s)).length ∧
      s.AnsweredErr k rest ∧ k = 35) ∧
    (∃ (s : State) (k : Nat) (rest : List Answer), acceptedIn (.print [0x41] 3) = some s.phase ∧ s.busy = false ∧
      s.Quiet (operationTrace (.print [0x41] 3) s).length ∧ k < (writesOf (operationTrace (.print [0x41] 3) s)).length ∧
      s.AnsweredErr k rest ∧ k = 0) ∧
    (∃ (s : State) (k : Nat) (rest : List Answer), acceptedIn .clear = some s.phase ∧ s.busy = false ∧
      s.Quiet (operationTrace .clear s).length ∧ k < (writesOf (operationTrace .clear s)).length ∧
      s.AnsweredErr k rest ∧ k = 5) :=
  ⟨⟨answering (oks 35 ++ [.err]) State.reset, 35, [], by decide, by decide, quiet_nil rfl, by decide +kernel, by decide, rfl⟩,
    ⟨answering [.err] (ready true 0), 0, [], by decide, by decide, quiet_nil rfl, by decide, by decide, rfl⟩,
    ⟨answering (oks 5 ++ [.err]) (ready true 0), 5, [], by decide, by decide, quiet_nil rfl, by decide, by decide, rfl⟩⟩

/-- P4, steps 5 and 6: CLEAR, its fourth write answered Err, and CLEAR again. -/
theorem witness_OperationsGoOnAfterBusError : ∃ (i j : Instr) (s t : State) (k : Nat) (rest : List Answer),
    acceptedIn i = some s.phase ∧ acceptedIn j = some s.phase ∧ s.busy = false ∧ s.rst = [] ∧
    k < (writesOf (operationTrace i s)).length ∧
    s.AnsweredErr k (List.replicate (writesOf (operationTrace j t)).length Answer.ok ++ rest) ∧ exec i s = .next t :=
  ⟨.clear, .clear, answering (oks 3 ++ .err :: oks 6) (ready true 0), _, 3, [], by decide, by decide, by decide, rfl,
    by decide, by decide, next_after _ (by decide)⟩

theorem witness_FailedConstructKeepsConfiguration : ∃ (s : State) (k : Nat) (rest : List Answer),
    s.phase = .uninitialized ∧ s.busy = false ∧ s.Quiet 73 ∧ k < 36 ∧ s.AnsweredErr k rest :=
  ⟨answering (oks 7 ++ [.err]) State.reset, 7, [], by decide, by decide, quiet_nil rfl, by decide, by decide⟩

theorem witness_BusErrorInsideByte :
    (∃ (s : State) (rest : List Answer), sentByte (.sendbyte .data 0x41) = some (.data, 0x41) ∧ s.Quiet 12 ∧ 0 < 6 ∧
      s.AnsweredErr 0 rest) ∧
    (∃ (s : State) (rest : List Answer), sentByte .lcdLine2 = some (.command, 0xC0) ∧ s.Quiet 12 ∧ 5 < 6 ∧
      s.AnsweredErr 5 rest) :=
  ⟨⟨answering [.err] (ready true 0), [], by decide, quiet_nil rfl, by decide, by decide⟩,
    ⟨answering (oks 5 ++ [.err]) (ready true 0), [], by decide, quiet_nil rfl, by decide, by decide⟩⟩

/-- At the first event and at the last; at a write with no answer, and at one whose answer would have been Err. -/
theorem witness_ResetCutsOperation :
    (∃ (s : State) (later : List Nat) (rest : List Answer), acceptedIn .clear = some s.phase ∧ s.busy = false ∧ s.wr = none ∧
      s.rst = 0 :: later ∧ 0 < (operationTrace .clear s).length ∧
      s.Answered (writesOf ((operationTrace .clear s).take 0)).length rest ∧ rest = []) ∧
    (∃ (s : State) (later : List Nat) (rest : List Answer), acceptedIn .clear = some s.phase ∧ s.busy = false ∧ s.wr = none ∧
      s.rst = 11 :: later ∧ 11 < (operationTrace .clear s).length ∧
      s.Answered (writesOf ((operationTrace .clear s).take 11)).length rest) ∧
    (∃ (s : State) (later : List Nat) (rest : List Answer), acceptedIn .clear = some s.phase ∧ s.busy = false ∧ s.wr = none ∧
      s.rst = 2 :: later ∧ 2 < (operationTrace .clear s).length ∧
      s.Answered (writesOf ((operationTrace .clear s).take 2)).length rest ∧ rest = [.err]) :=
  ⟨⟨resetAt [0] (ready true 0), [], [], by decide⟩, ⟨resetAt [11, 3] (ready true 6), [3], [], by decide⟩,
    ⟨resetAt [2] (answering [.ok, .err] (ready true 0)), [], [.err], by decide⟩⟩

/-- The last write of CONSTRUCT; of PRINT on line 1 the first, the last of the address byte and the first of the text; of PRINT on an invalid
line the first and the last; of CLEAR the first. -/
theorem witness_SequencerPosition :
    (∃ (s : State) (k : Nat), s.busy = false ∧ s.Answered k [] ∧ s.phase = .uninitialized ∧ s.Quiet 73 ∧ k < 36 ∧ k = 35) ∧
    (∀ k, k = 0 ∨ k = 5 ∨ k = 6 → ∃ (s : State) (text : List Byte), s.busy = false ∧ s.Answered k [] ∧ s.phase = .ready ∧
      s.Quiet (12 * (1 + text.length)) ∧ k < 6 * (1 + text.length)) ∧
    (∀ k, k = 0 ∨ k = 11 → ∃ (s : State) (text : List Byte), s.busy = false ∧ s.Answered k [] ∧ s.phase = .ready ∧
      (3 : BitVec 8) ≠ 1#8 ∧ (3 : BitVec 8) ≠ 2#8 ∧ s.Quiet (1 + 12 * text.length) ∧ k < 6 * text.length) ∧
    (∃ (s : State) (k : Nat), s.busy = false ∧ s.Answered k [] ∧ s.phase = .ready ∧ s.Quiet 12 ∧ k < 6 ∧ k = 0) := by
  refine ⟨⟨fresh 35, 35, by decide, by decide, by decide, quiet_nil rfl, by decide, rfl⟩, ?_, ?_,
    ⟨ready true 0, 0, by decide, by decide, by decide, quiet_nil rfl, by decide, rfl⟩⟩
  · intro k hk
    exact ⟨ready true k, [0x48, 0x69], rfl, (List.append_nil _).symm, rfl, quiet_nil rfl, by simp; omega⟩
  · intro k hk
    exact ⟨ready true k, [0x48, 0x69], rfl, (List.append_nil _).symm, rfl, by decide, by decide, quiet_nil rfl, by simp; omega⟩

/-- For SENDBYTE and for each of the eight command bytes. -/
theorem witness_SendByteTrace :
    (∃ (s : State) (rest : List Answer), s.Quiet 12 ∧ s.Answered 6 rest) ∧
    sentByte (.sendbyte .data 0xFF) = some (.data, 0xFF) ∧ sentByte .lcdReset4 = some (.command, 0x33) ∧
    sentByte .lcdSet4 = some (.command, 0x32) ∧ sentByte .lcdEntry = some (.command, 0x06) ∧
    sentByte .lcdDispon = some (.command, 0x0C) ∧ sentByte .lcdFunc = some (.command, 0x28) ∧
    sentByte .lcdClear = some (.command, 0x01) ∧ sentByte .lcdLine1 = some (.command, 0x80) ∧
    sentByte .lcdLine2 = some (.command, 0xC0) :=
  ⟨⟨resetAt [12] (ready true 6), [], quiet_cons rfl (by decide), by decide⟩, by decide⟩

/-- For each of the three packets, and each of the three answers. -/
theorem witness_PacketWrite :
    (∃ (s : State) (rest : List Answer), s.Quiet 1 ∧ s.answers = .ok :: rest) ∧
    (∃ (s : State) (rest : List Answer), s.Quiet 1 ∧ s.answers = .err :: rest) ∧
    (∃ s : State, s.Quiet 1 ∧ s.answers = []) ∧
    writtenByte (.pktPresent 4 true .data) = some 0x49 ∧ writtenByte (.pktEset 4 true .data) = some 0x4D ∧
    writtenByte (.pktEclr 4 true .data) = some 0x49 :=
  ⟨⟨resetAt [1] (ready true 1), [], quiet_cons rfl (by decide), by decide⟩,
    ⟨answering [.err] (ready true 0), [], quiet_nil rfl, by decide⟩, ⟨ready true 0, quiet_nil rfl, by decide⟩, by decide⟩

theorem witness_BacklightInEveryWrite : ∃ (i : Instr) (s t : State) (events : List Event),
    (isCommand i = true ∨ sentByte i ≠ none) ∧ exec i s = .next t ∧ t.trace = s.trace ++ events ∧
    Event.write 0x18 .ok ∈ events :=
  ⟨.clear, ready true 6, _, (after (exec .clear (ready true 6))).trace, by decide, next_after _ (by decide), by decide,
    by decide⟩

theorem witness_BacklightInEveryStep : ∃ (s t : State) (events : List Event), s.Inv ∧ step s = .next t ∧ NoReset s t ∧
    t.trace = s.trace ++ events ∧ Event.write 0x18 .ok ∈ events := by
  refine ⟨offering [0x80000000] (ready true 6), _, (after (step (offering [0x80000000] (ready true 6)))).trace, ?_,
    next_after _ (by decide), by decide, by decide, by decide⟩
  constructor <;> first | decide | exact fun _ _ h => absurd h List.not_mem_nil | exact fun _ h => nomatch h

theorem witness_EnableInSecondWriteOnly : ∃ (i : Instr) (s t : State) (events : List Event) (k : Nat) (b : Byte),
    isCommand i = true ∧ exec i s = .next t ∧ t.trace = s.trace ++ events ∧ (writesOf events)[k]? = some b :=
  ⟨.clear, ready true 6, _, (after (exec .clear (ready true 6))).trace, 5, 0x18, by decide, next_after _ (by decide), by decide,
    by decide⟩

theorem witness_WritesOfAByte : ∃ (i : Instr) (m : Mode) (v : Byte) (s t : State) (events : List Event) (k : Nat) (b : Byte),
    sentByte i = some (m, v) ∧ exec i s = .next t ∧ t.trace = s.trace ++ events ∧ (writesOf events)[k]? = some b :=
  ⟨.sendbyte .data 0x41, .data, 0x41, ready true 6, _, (after (exec (.sendbyte .data 0x41) (ready true 6))).trace, 5, 0x19,
    by decide, next_after _ (by decide), by decide, by decide⟩

theorem witness_WaitBetweenWrites : ∃ (i : Instr) (s t : State) (events : List Event),
    (isCommand i = true ∨ sentByte i ≠ none) ∧ s.build.Legal ∧ exec i s = .next t ∧ t.trace = s.trace ++ events :=
  ⟨.clear, ready true 6, _, (after (exec .clear (ready true 6))).trace, by decide, by decide, next_after _ (by decide),
    by decide⟩

theorem witness_WaitSums :
    (∃ (s t : State) (events : List Event) (rest : List Answer), exec .lcdClear s = .next t ∧ t.trace = s.trace ++ events ∧
      sentByte .lcdClear ≠ none ∧ s.Quiet 12 ∧ s.Answered 6 rest) ∧
    (∃ (s t : State) (events : List Event) (rest : List Answer), exec .clear s = .next t ∧ t.trace = s.trace ++ events ∧
      acceptedIn .clear = some s.phase ∧ s.busy = false ∧ s.Quiet (operationTrace .clear s).length ∧
      s.Answered (writesOf (operationTrace .clear s)).length rest) :=
  ⟨⟨ready true 6, _, (after (exec .lcdClear (ready true 6))).trace, [], next_after _ (by decide), by decide, by decide,
      quiet_nil rfl, by decide⟩,
    ⟨ready true 6, _, (after (exec .clear (ready true 6))).trace, [], next_after _ (by decide), by decide, by decide, by decide,
      quiet_nil rfl, by decide⟩⟩

/-- The hypotheses of `LcdViewOfSentByte` and of `LcdViewOfToggleWrites`, which are the same. -/
theorem witness_LcdViewOfSentByte : ∃ (i : Instr) (m : Mode) (v : Byte) (s t : State) (events : List Event) (rest : List Answer),
    sentByte i = some (m, v) ∧ s.Quiet 12 ∧ s.Answered 6 rest ∧ exec i s = .next t ∧ t.trace = s.trace ++ events :=
  ⟨.sendbyte .data 0x41, .data, 0x41, ready true 6, _, (after (exec (.sendbyte .data 0x41) (ready true 6))).trace, [],
    by decide, quiet_nil rfl, by decide, next_after _ (by decide), by decide⟩

theorem witness_LcdViewOfToggleWrites : ∃ (i : Instr) (m : Mode) (v : Byte) (s t : State) (events : List Event)
    (rest : List Answer),
    sentByte i = some (m, v) ∧ s.Quiet 12 ∧ s.Answered 6 rest ∧ exec i s = .next t ∧ t.trace = s.trace ++ events :=
  witness_LcdViewOfSentByte

theorem witness_LcdViewOfOperation : ∃ (i : Instr) (s t : State) (events : List Event) (rest : List Answer),
    acceptedIn i = some s.phase ∧ s.busy = false ∧ s.Quiet (operationTrace i s).length ∧
    s.Answered (writesOf (operationTrace i s)).length rest ∧ exec i s = .next t ∧ t.trace = s.trace ++ events :=
  ⟨.print [0x41] 2, ready true 12, _, (after (exec (.print [0x41] 2) (ready true 12))).trace, [], by decide, by decide,
    quiet_nil rfl, by decide, next_after _ (by decide), by decide⟩

/-- At a clear command and given its time, for CLEAR and for PRINT on line 2; not busy, for PRINT on line 3. -/
theorem witness_DisplayFollowsOperations :
    (∃ (s : State) (rest : List Answer) (text : List Byte) (line : BitVec 8),
      s.DisplayReady ∧ s.phase = .ready ∧ s.busy = false ∧ s.Quiet 12 ∧ s.Answered 6 rest ∧
      (line = 1#8 ∨ line = 2#8) ∧ s.Quiet (12 * (1 + text.length)) ∧ s.Answered (6 * (1 + text.length)) (oks 0) ∧
      s.device.busy = true) ∧
    (∃ (s : State) (rest : List Answer) (text : List Byte) (line : BitVec 8),
      s.DisplayReady ∧ s.phase = .ready ∧ s.busy = false ∧ line ≠ 1#8 ∧ line ≠ 2#8 ∧ s.Quiet (1 + 12 * text.length) ∧
      s.Answered (6 * text.length) rest) :=
  ⟨⟨cleared true (ready true 12), oks 6, [0x41], 2, ⟨by decide, by decide, by decide, by decide⟩, by decide, by decide,
      quiet_nil rfl, by decide, by decide, quiet_nil rfl, by decide, by decide⟩,
    ⟨ready true 6, [], [0x41], 3, ⟨by decide, by decide, by decide, by decide⟩, by decide, by decide, by decide, by decide,
      quiet_nil rfl, by decide⟩⟩

/-- A display that awaits CONSTRUCT, and one in step, at a clear command. -/
theorem witness_ConstructBringsDisplayInStep :
    (∃ (s : State) (rest : List Answer),
      s.sync = .awaiting ∧ s.phase = .uninitialized ∧ s.busy = false ∧ s.Quiet 73 ∧ s.Answered 36 rest) ∧
    (∃ (s : State) (rest : List Answer),
      (s.sync = .inStep ∧ s.device.half = none ∧ s.lines.getLsbD 2 = false ∧ s.build.Legal) ∧
      s.phase = .uninitialized ∧ s.busy = false ∧ s.Quiet 73 ∧ s.Answered 36 rest) :=
  ⟨⟨fresh 36, [], by decide, by decide, by decide, quiet_nil rfl, by decide⟩,
    ⟨cleared false { fresh 36 with sync := .inStep }, [], by decide, by decide, by decide, quiet_nil rfl, by decide⟩⟩

/-- The last event of a CONSTRUCT that was held up. -/
theorem witness_DisplayKnownOnlyAfterConstruct : ∃ s t : State, step s = .next t ∧ s.sync ≠ .inStep ∧ t.sync = .inStep :=
  ⟨{ State.reset with busy := true, seq := seqStart .construct 0, work := [.prim (.wait .eDelay)] }, _,
    next_after _ (by decide), by decide, by decide⟩

theorem witness_PhaseTransitions :
    (∃ (i : Instr) (s t : State), exec i s = .next t ∧ s.phase = .uninitialized ∧ t.phase = .ready) ∧
    (∃ s t : State, step s = .next t ∧ s.phase = .uninitialized ∧ t.phase = .ready) ∧
    (∃ s t : State, step s = .next t ∧ s.phase = .ready ∧ NoReset s t) ∧
    (∃ s t : State, step s = .next t ∧ s.phase = .ready ∧ t.phase = .uninitialized) :=
  ⟨⟨.construct 16 2 true, fresh 36, _, next_after _ (by decide), by decide, by decide +kernel⟩,
    ⟨offering [0x00010210] (fresh 36), _, next_after _ (by decide), by decide, by decide +kernel⟩,
    ⟨offering [0x80000000] (ready true 6), _, next_after _ (by decide), by decide, by decide⟩,
    ⟨resetAt [0] (ready true 0), _, next_after _ (by decide), by decide, by decide⟩⟩

theorem witness_ConfigurationImmutable :
    (∃ s t : State, step s = .next t ∧ s.phase = .ready ∧ NoReset s t) ∧
    (∃ s t : State, (exec (.print [] 1) s = .next t ∨ exec .clear s = .next t) ∧ NoReset s t) :=
  ⟨⟨offering [0x00010414] (ready true 0), _, next_after _ (by decide), by decide, by decide⟩,
    ⟨ready true 6, _, .inr (next_after _ (by decide)), by decide⟩⟩

theorem witness_BuildNeverChanges : ∃ s t : State, step s = .next t :=
  ⟨offering [0x80000000] (ready true 6), _, next_after _ (by decide)⟩

theorem witness_OnlyTheExpanderIsWritten : ∃ (s t : State) (a : Nat), step s = .next t ∧ a ≠ s.build.i2cAddr.toNat :=
  ⟨offering [0x80000000] (ready true 6), _, 0x26, next_after _ (by decide), by decide⟩

/-- A step that reports a status, and one that holds it. -/
theorem witness_RecordsOnlyGrow :
    (∃ s t : State, step s = .next t ∧ NoReset s t ∧ t.results ≠ s.results) ∧
    (∃ s t : State, step s = .next t ∧ NoReset s t ∧ t.results = s.results ∧ t.trace ≠ s.trace) :=
  ⟨⟨offering [0x80000000] (ready true 6), _, next_after _ (by decide), by decide, by decide⟩,
    ⟨offering [0x80000000] (ready true 3), _, next_after _ (by decide), by decide, by decide, by decide⟩⟩

theorem witness_InternalFrame : ∃ (i : Instr) (s t : State) (a : Nat), isCommand i = false ∧ exec i s = .next t ∧ NoReset s t ∧
    a ≠ s.build.i2cAddr.toNat ∧ t.results = s.results :=
  ⟨.sendbyte .data 0x41, ready true 6, _, 0x28, by decide, next_after _ (by decide), by decide, by decide, by decide⟩

theorem witness_CommandFrame :
    (∃ (s t : State) (a : Nat), isCommand .clear = true ∧ exec .clear s = .next t ∧ NoReset s t ∧
      a ≠ s.build.i2cAddr.toNat ∧ (∀ w h b, Instr.clear ≠ .construct w h b) ∧ (∀ text line, Instr.clear ≠ .print text line)) ∧
    (∃ s t : State, isCommand .clear = true ∧ exec .clear s = .next t ∧ NoReset s t ∧ t.results = s.results) ∧
    (∃ s t : State, isCommand (.cwReserved 0) = true ∧ exec (.cwReserved 0) s = .next t ∧ NoReset s t ∧
      acceptedIn (.cwReserved 0) = none) :=
  ⟨⟨ready true 6, _, 0x28, by decide, next_after _ (by decide), by decide, by decide, by simp, by simp⟩,
    ⟨ready true 3, _, by decide, next_after _ (by decide), by decide, by decide⟩,
    ⟨ready true 6, _, by decide, next_after _ (by decide), by decide, by decide⟩⟩

theorem witness_StepKeepsInvariant : ∃ s t : State, s.Inv ∧ step s = .next t := by
  refine ⟨State.reset, _, ?_, next_after _ (by decide)⟩
  constructor <;> first | decide | exact fun _ _ h => absurd h List.not_mem_nil | exact fun _ h => nomatch h

/-- A reset due just after the last event. -/
theorem witness_QueuedEventsEqualRunAtOnce : ∃ (s : State) (ps : List Prim) (rest : List Answer),
    s.busy = true ∧ s.work = [] ∧ ps ≠ [] ∧ ps.all primLegal = true ∧ s.Quiet ps.length ∧
    s.Answered (ps.countP primIsWrite) rest :=
  ⟨resetAt [6] (clearing [] 3), nibble 0x18, [], by decide, by decide, by decide, by decide, quiet_cons rfl (by decide),
    by decide⟩

/-- Among the beats of a PRINT, right after its word and before its last beat; and after a refused CONSTRUCT. -/
theorem witness_ResetBetweenTransfers :
    (∃ (s : State) (w : BitVec 32) (beats : List (BitVec 32)) (k : Nat) (later : List Nat),
      s.work = [] ∧ s.busy = false ∧ s.wr = none ∧ s.rx = none ∧ s.cmd = w :: beats ∧ s.rst = k :: later ∧
      0 < k ∧ k ≤ textBeats w ∧ k ≤ s.cmd.length ∧ k = 1) ∧
    (∃ (s : State) (w : BitVec 32) (beats : List (BitVec 32)) (k : Nat) (later : List Nat),
      s.work = [] ∧ s.busy = false ∧ s.wr = none ∧ s.rx = none ∧ s.cmd = w :: beats ∧ s.rst = k :: later ∧
      0 < k ∧ k ≤ textBeats w ∧ k ≤ s.cmd.length ∧ k = textBeats w) ∧
    (∃ (s : State) (w : BitVec 32) (rest : List (BitVec 32)) (later : List Nat),
      s.work = [] ∧ s.busy = false ∧ s.wr = none ∧ s.rx = none ∧ s.phase = .ready ∧ w.extractLsb' 30 2 = 0b00 ∧
      s.cmd = w :: rest ∧ s.rst = 1 :: later) :=
  ⟨⟨resetAt [1] (offering [0x40000201, 0x48, 0x69] (ready true 18)), 0x40000201, [0x48, 0x69], 1, [], by decide⟩,
    ⟨resetAt [2] (offering [0x40000201, 0x48, 0x69] (ready true 18)), 0x40000201, [0x48, 0x69], 2, [], by decide⟩,
    ⟨resetAt [1] (offering [0x00010210, 0x00010210] (ready true 36)), 0x00010210, [0x00010210], [], by decide⟩⟩

/-- A CLEAR held up, and a PRINT word with a beat missing. -/
theorem witness_StepAnswers :
    State.Inv (clearing [.lcdcmd 0x01, .prim (.write .eset 0x0C)] 6) ∧
    State.Inv { ready true 18 with rx := some { word := 0x40000201, got := [0x48] } } := by
  refine ⟨?_, ?_⟩ <;> constructor <;>
    first
    | decide
    | (intro place b h; simp [clearing] at h; rw [h.2]; decide)
    | exact fun _ _ h => absurd h List.not_mem_nil
    | exact fun _ h => nomatch h

/-- Held up at its first write, and at its last. -/
theorem witness_HeldOperationGoesOn :
    (∃ (s t : State), acceptedIn .clear = some s.phase ∧ s.busy = false ∧ s.work = [] ∧ s.rx = none ∧ s.cmd = [] ∧
      s.Quiet (operationTrace .clear s).length ∧ 0 < (writesOf (operationTrace .clear s)).length ∧ s.Answered 0 [] ∧
      exec .clear s = .next t) ∧
    (∃ (s t : State), acceptedIn .clear = some s.phase ∧ s.busy = false ∧ s.work = [] ∧ s.rx = none ∧ s.cmd = [] ∧
      s.Quiet (operationTrace .clear s).length ∧ 5 < (writesOf (operationTrace .clear s)).length ∧ s.Answered 5 [] ∧
      exec .clear s = .next t) :=
  ⟨⟨ready true 0, _, by decide, by decide, by decide, by decide, by decide, quiet_nil rfl, by decide, by decide,
      next_after _ (by decide)⟩,
    ⟨resetAt [12] (ready true 5), _, by decide, by decide, by decide, by decide, by decide, quiet_cons rfl (by decide),
      by decide, by decide, next_after _ (by decide)⟩⟩

theorem witness_DisplayLostWithoutTime : ∃ (i : Instr) (s : State) (rest : List Answer),
    s.sync = .inStep ∧ s.device.busy = true ∧ s.settled.head? ≠ some true ∧ s.lines.getLsbD 2 = false ∧ s.phase = .ready ∧
    acceptedIn i = some .ready ∧ bytesSent i ≠ 0 ∧ s.busy = false ∧ s.Quiet (operationTrace i s).length ∧
    s.Answered (writesOf (operationTrace i s)).length rest :=
  ⟨.print [0x41] 3, cleared false (ready true 6), [], by decide, by decide, by decide, by decide, by decide, by decide,
    by decide, by decide, quiet_nil rfl, by decide⟩

end Sys2Proof.Tests
end

/-!
The phase and the configuration (10_state.md R21, R41). An event, an operation and a step do one of three things to them (`PhaseStep`): keep
them, take a reset, or complete a CONSTRUCT. It is proved once for a run of events (`runPrims_stopped`), lifted to `exec` and to `step`, and
both statements are read off it.
-/

namespace Sys2Proof.Machine

/-! ### The three things that can happen to the phase -/

/-- No reset inside, the phase kept, and with it, once it is Ready, the configuration. -/
structure PhaseKept (s t : State) : Prop where
  phase : t.phase = s.phase
  cfg : s.phase = .ready → t.cfg = s.cfg
  rst : t.rst.length = s.rst.length

/-- A reset was taken, and with it came back the phase of reset. -/
structure ResetTaken (s t : State) : Prop where
  phase : t.phase = .uninitialized
  taken : t.rst.length < s.rst.length

/-- A CONSTRUCT completed with success, with no reset inside (R113). -/
structure ConstructDone (s t : State) : Prop where
  phase : t.phase = .ready
  cfg : s.phase = .ready → t.cfg = s.cfg
  rst : t.rst.length = s.rst.length
  status : t.status = 0b000
  results : t.results = s.results ++ [0b000]
  busy : t.busy = false

/-- What happens to the phase, the third only if `mayConstruct`. -/
inductive PhaseStep (mayConstruct : Prop) (s t : State) : Prop where
  | kept (h : PhaseKept s t)
  | reset (h : ResetTaken s t)
  | constructed (hc : mayConstruct) (h : ConstructDone s t)

theorem PhaseKept.refl (s : State) : PhaseKept s s := ⟨rfl, fun _ => rfl, rfl⟩

theorem PhaseKept.trans {s u t : State} (h : PhaseKept s u) (g : PhaseKept u t) : PhaseKept s t :=
  ⟨g.phase.trans h.phase, fun hs => (g.cfg (h.phase.trans hs)).trans (h.cfg hs), g.rst.trans h.rst⟩

/-- What happens after a beginning that keeps the phase and reports nothing happens to the whole. -/
theorem PhaseStep.after {c d : Prop} {s u t : State} (h : PhaseKept s u) (hres : u.results = s.results) (hcd : c → d)
    (g : PhaseStep c u t) : PhaseStep d s t := by
  cases g with
  | kept g => exact .kept (h.trans g)
  | reset g => exact .reset ⟨g.phase, h.rst ▸ g.taken⟩
  | constructed hc g =>
    exact .constructed (hcd hc) ⟨g.phase, fun hs => (g.cfg (h.phase.trans hs)).trans (h.cfg hs),
      g.rst.trans h.rst, g.status, hres ▸ g.results, g.busy⟩

theorem PhaseStep.mono {c d : Prop} {s t : State} (hcd : c → d) (g : PhaseStep c s t) : PhaseStep d s t :=
  g.after (.refl s) rfl hcd

/-- From Ready, with no reset inside, phase and configuration stay. -/
theorem PhaseStep.ready_kept {c : Prop} {s t : State} (h : PhaseStep c s t) (hs : s.phase = .ready) (hn : NoReset s t) :
    t.phase = .ready ∧ t.cfg = s.cfg := by
  cases h with
  | kept h => exact ⟨h.phase.trans hs, h.cfg hs⟩
  | reset h => exact absurd hn h.taken.ne
  | constructed _ h => exact ⟨h.phase, h.cfg hs⟩

/-- Only a reset leads out of Ready. -/
theorem PhaseStep.reset_of_left_ready {c : Prop} {s t : State} (h : PhaseStep c s t) (hs : s.phase = .ready)
    (ht : t.phase = .uninitialized) : t.rst.length < s.rst.length := by
  cases h with
  | kept h => rw [h.phase, hs] at ht; cases ht
  | reset h => exact h.taken
  | constructed _ h => rw [h.phase] at ht; cases ht

/-- Only a completed CONSTRUCT leads into Ready. -/
theorem PhaseStep.constructed_of_became_ready {c : Prop} {s t : State} (h : PhaseStep c s t)
    (hs : s.phase = .uninitialized) (ht : t.phase = .ready) : c ∧ ConstructDone s t := by
  cases h with
  | kept h => rw [h.phase, hs] at ht; cases ht
  | reset h => rw [h.phase] at ht; cases ht
  | constructed hc h => exact ⟨hc, h⟩

/-! ### The shared operations -/

theorem okStep_phaseKept (p : Prim) (s : State) : PhaseKept s (okStep s p) :=
  ⟨okStep_phase s p, fun _ => okStep_cfg s p, by simp⟩

theorem okSteps_phaseKept (ps : List Prim) (s : State) : PhaseKept s (okSteps ps s) :=
  ⟨okSteps_phase ps s, fun _ => okSteps_cfg ps s, by simp [okSteps_rst]⟩

theorem failed_phaseKept (b : Byte) (s : State) : PhaseKept s (s.failed b) := ⟨rfl, fun _ => rfl, by simp⟩

theorem refuse_phaseKept (s : State) : PhaseKept s s.refuse := ⟨rfl, fun _ => rfl, rfl⟩

theorem transfer_phaseKept (rx : Option Rx) (n : Nat) (s : State) : PhaseKept s (s.transfer rx n) :=
  ⟨rfl, fun _ => rfl, by simp⟩

/-- A reset that is due is taken, whatever write is asked for as it rises (`u` is `s.asked p` or `s.askedNext`). -/
theorem hardwareReset_taken {s u : State} (cut : Bool) (hu : u.rst = s.rst) (hdue : s.rst.head? = some 0) :
    ResetTaken s (u.hardwareReset cut) where
  phase := rfl
  taken := by
    obtain ⟨ks, hks⟩ := List.head?_eq_some_iff.mp hdue
    simp [hu, hks]

/-- Operands accepted in Ready do not touch the configuration. -/
theorem begun_phaseKept (i : Instr) (s : State) (h : acceptedIn i = some s.phase) : PhaseKept s (begun i s) where
  phase := begun_phase i s
  cfg hs := by
    rw [hs] at h
    cases i with
    | construct => cases h
    | _ => rfl
  rst := by simp

/-- The end of an operation makes the phase Ready if it is a CONSTRUCT, and else keeps it. -/
theorem complete_phaseStep (s : State) : PhaseStep (s.seq.op = .construct) s s.complete := by
  by_cases hop : s.seq.op = .construct
  · obtain ⟨hst, hres⟩ := complete_status s (by simp [hop])
    have hdone : statusDone s.seq.op s.latch.line = 0b000 := by simp only [hop, statusDone, softError]; rfl
    exact .constructed hop
      { phase := by simp [complete_phase, hop]
        cfg := fun _ => s.complete_cfg
        rst := by simp
        status := hst.trans hdone
        results := hdone ▸ hres
        busy := s.complete_busy }
  · exact .kept ⟨by simp [complete_phase, hop], fun _ => s.complete_cfg, by simp⟩

theorem okSteps_complete_phaseStep (ps : List Prim) (s : State) :
    PhaseStep (s.seq.op = .construct) s (okSteps ps s).complete :=
  .after (okSteps_phaseKept ps s) (okSteps_results ps s) (by simp) (complete_phaseStep (okSteps ps s))

/-! ### Runs of events -/

/-- A run stopped short of its last event: at a reset, at a bus error or at an unanswered write. Nothing is left to complete, and no operation
made the phase Ready. -/
structure Stopped (s t : State) : Prop where
  open_work : t.busy = false ∨ t.work ≠ []
  phaseStep : PhaseStep False s t

theorem Stopped.completed_eq {s t : State} (h : Stopped s t) : t.completed = t := by
  rcases t.completed_cases with ⟨hb, hw, _⟩ | ⟨_, ht⟩
  · simpa [hb, hw] using h.open_work
  · exact ht

theorem Stopped.after_okStep {p : Prim} {s t : State} (h : Stopped (okStep s p) t) : Stopped s t :=
  ⟨h.open_work, h.phaseStep.after (okStep_phaseKept p s) (okStep_results s p) id⟩

/-- Events run to their end, or stop. -/
theorem runPrims_stopped (ps : List Prim) (s : State) :
    runPrims ps s = .goOn (okSteps ps s) ∨
      ∃ t, (runPrims ps s = .waiting t ∨ runPrims ps s = .ended t) ∧ Stopped s t := by
  induction ps generalizing s with
  | nil => left; rfl
  | cons p ps ih =>
    rcases runPrim_cases p s with ⟨hdue, h⟩ | ⟨_, ⟨h, _⟩ | ⟨pl, b, _, _, h⟩ | ⟨pl, b, _, _, h⟩⟩
    · right
      exact ⟨_, .inr (by simp only [runPrims, h]), .inl rfl, .reset (hardwareReset_taken true (s.asked_rst p) hdue)⟩
    · have hrun : runPrims (p :: ps) s = runPrims ps (okStep s p) := by simp [runPrims, h]
      rw [hrun]
      exact (ih (okStep s p)).imp id fun ⟨t, ht, hstop⟩ => ⟨t, ht, hstop.after_okStep⟩
    · right
      exact ⟨{ s with wr := some b, work := (p :: ps).map Item.prim ++ s.work }, .inl (by simp only [runPrims, h]),
        .inr (by simp), .kept ⟨rfl, fun _ => rfl, rfl⟩⟩
    · right
      exact ⟨_, .inr (by simp [runPrims, h]), .inl rfl, .kept (failed_phaseKept b s)⟩

/-- An internal operation runs to its end, or stops. -/
theorem runInner_stopped (ps : List Prim) (s t : State) (h : runInner ps s = .next t) : t = okSteps ps s ∨ Stopped s t := by
  rcases runPrims_stopped ps s with hr | ⟨u, hr | hr, hstop⟩ <;> rw [runInner, hr] at h <;> cases h
  · exact .inl rfl
  · exact .inr hstop
  · exact .inr hstop

theorem operate_phaseStep (s t : State) (h : s.operate = .next t) : PhaseStep (s.seq.op = .construct) s t := by
  rcases runPrims_stopped s.events s with hr | ⟨u, hr | hr, hstop⟩ <;> rw [State.operate, hr] at h <;> cases h
  · exact okSteps_complete_phaseStep s.events s
  · exact hstop.phaseStep.mono False.elim
  · exact hstop.phaseStep.mono False.elim

/-! ### Instructions and steps -/

/-- Only a CONSTRUCT word begins the operation CONSTRUCT. -/
theorem opOf_eq_construct (i : Instr) (h : opOf i = .construct) :
    ∃ width height backlight, i = .construct width height backlight := by
  cases i with
  | construct width height backlight => exact ⟨width, height, backlight, rfl⟩
  | _ => cases h

/-- A command word that the phase does not accept keeps the state, or is refused. -/
theorem exec_not_accepted (i : Instr) (s t : State) (hc : isCommand i = true) (ha : acceptedIn i ≠ some s.phase)
    (h : exec i s = .next t) : t = s ∨ t = s.refuse := by
  rw [exec_command i s hc, if_neg ha] at h
  split at h <;> cases h
  · exact .inl rfl
  · exact .inr rfl

/-- What an instruction does to the phase: only CONSTRUCT can make it Ready. -/
theorem exec_phaseStep (i : Instr) (s t : State) (h : exec i s = .next t) :
    PhaseStep (∃ width height backlight, i = .construct width height backlight) s t := by
  cases hc : isCommand i with
  | false =>
    rw [exec_inner i s hc] at h
    rcases runInner_stopped _ s t h with rfl | hstop
    · exact .kept (okSteps_phaseKept _ s)
    · exact hstop.phaseStep.mono False.elim
  | true =>
    by_cases ha : acceptedIn i = some s.phase
    · cases hb : s.busy with
      | true => simp only [exec_command i s hc, hb, if_true] at h; cases h; exact .kept (.refl s)
      | false =>
        rw [exec_accepted i s ha hb] at h
        have hop : (begun i s).seq.op = .construct → opOf i = .construct := (begun_op i s _ ha).symm.trans
        exact (operate_phaseStep _ t h).after (begun_phaseKept i s ha) (begun_results i s)
          fun hcon => opOf_eq_construct i (hop hcon)
    · rcases exec_not_accepted i s t hc ha h with rfl | rfl
      · exact .kept (.refl _)
      · exact .kept (refuse_phaseKept s)

/-- What an entry of the queue does to the phase, with the completion that its last event brings. -/
theorem runInner_completed_phaseStep (ps : List Prim) (s u : State) (h : runInner ps s = .next u) :
    PhaseStep True s u.completed := by
  rcases runInner_stopped ps s u h with rfl | hstop
  · rcases (okSteps ps s).completed_cases with ⟨_, _, hdone⟩ | ⟨_, hopen⟩
    · rw [hdone]; exact (okSteps_complete_phaseStep ps s).mono fun _ => trivial
    · rw [hopen]; exact .kept (okSteps_phaseKept ps s)
  · rw [hstop.completed_eq]; exact hstop.phaseStep.mono fun _ => trivial

/-- What a step does to the phase. -/
theorem step_phaseStep (s t : State) (h : step s = .next t) : PhaseStep True s t := by
  rcases step_cases s t h with ⟨hdue, rfl⟩ | ⟨_, hitem | ⟨_, _, rfl⟩ | ⟨_, _, rx, n, _, rfl⟩ | ⟨_, _, w, text, n, _, hex⟩⟩
  · exact .reset (hardwareReset_taken s.inProgress s.askedNext_rst hdue)
  · obtain ⟨item, rest, u, _, _, hrun, rfl⟩ := hitem
    have hpop : PhaseKept s { s with work := rest } := ⟨rfl, fun _ => rfl, rfl⟩
    exact (runInner_completed_phaseStep _ _ u hrun).after hpop rfl id
  · exact (complete_phaseStep s).mono fun _ => trivial
  · exact .kept (transfer_phaseKept rx n s)
  · exact (exec_phaseStep _ _ t hex).after (transfer_phaseKept none n s) rfl fun _ => trivial

/-! ### The statements -/

/-- Settles O41: whatever an instruction or a step does to the phase is one of the three cases of `PhaseStep`. -/
theorem phaseTransitions : Obligations.PhaseTransitions := by
  refine ⟨rfl, fun i s t h hs ht => ?_, fun s t h hs ht => ?_, fun s t h hs hn => ?_, fun s t h hs ht => ?_, fun s => rfl⟩
  · obtain ⟨hcon, hdone⟩ := (exec_phaseStep i s t h).constructed_of_became_ready hs ht
    exact ⟨hcon, hdone.status, hdone.busy⟩
  · obtain ⟨_, hdone⟩ := (step_phaseStep s t h).constructed_of_became_ready hs ht
    exact ⟨hdone.results, hdone.busy⟩
  · exact ((step_phaseStep s t h).ready_kept hs hn).1
  · exact (step_phaseStep s t h).reset_of_left_ready hs ht

/-- An operation accepted in Ready alone keeps configuration and phase in every state, if no reset comes. -/
theorem exec_ready_only_keeps (i : Instr) (s t : State) (hi : acceptedIn i = some .ready) (h : exec i s = .next t)
    (hn : NoReset s t) : t.cfg = s.cfg ∧ t.phase = s.phase := by
  cases hs : s.phase with
  | ready =>
    obtain ⟨hphase, hcfg⟩ := (exec_phaseStep i s t h).ready_kept hs hn
    exact ⟨hcfg, hphase⟩
  | uninitialized =>
    rcases exec_not_accepted i s t (acceptedIn_isCommand i _ hi) (by simp [hi, hs]) h with rfl | rfl
    · exact ⟨rfl, hs⟩
    · exact ⟨rfl, hs⟩

/-- Settles O42: from Ready by `PhaseStep`, and in Uninitialized PRINT and CLEAR are not accepted. -/
theorem configurationImmutable : Obligations.ConfigurationImmutable := by
  refine ⟨fun s t h hs hn => ((step_phaseStep s t h).ready_kept hs hn).2, fun s t text line h hn => ?_⟩
  rcases h with h | h
  · exact exec_ready_only_keeps (.print text line) s t rfl h hn
  · exact exec_ready_only_keeps .clear s t rfl h hn

end Sys2Proof.Machine

/-!
`lcd_view` of a sent byte (20_memory.md R70). Enable falls once in the three writes of a nibble, at the third, and shows the display RS and the
nibble (`lcdNibblesFrom_nibbleTrace`); the two nibbles of a byte are the halves of its value, which R70 pairs again (`lcdView_byteTrace_append`).
-/

namespace Sys2Proof.Machine

/-! ### What the display reads off a packet -/

/-- Enable is not among the lines the display reads (R54). -/
theorem linesNibble_enableClear (p : Byte) : linesNibble (enableClear p) = linesNibble p := by
  revert p; decide

theorem linesNibble_highPacket (bl : Bool) (m : Mode) (v : Byte) :
    linesNibble (highPacket bl m v) = (m, v.extractLsb' 4 4) := by
  revert v; cases bl <;> cases m <;> decide

theorem linesNibble_lowPacket (bl : Bool) (m : Mode) (v : Byte) :
    linesNibble (lowPacket bl m v) = (m, v.extractLsb' 0 4) := by
  revert v; cases bl <;> cases m <;> decide

/-- The halves of a byte, high half first, are the byte. -/
theorem extract_high_append_low (v : Byte) : v.extractLsb' 4 4 ++ v.extractLsb' 0 4 = v := by
  revert v; decide

@[simp] theorem enableSet_enable (p : Byte) : (enableSet p)[2] = true := by
  simp [enableSet, Config.enableBit]

@[simp] theorem enableClear_enable (p : Byte) : (enableClear p)[2] = false := by
  simp [enableClear, Config.enableBit]

/-! ### What the display reads off a nibble and a byte -/

theorem writesOf_nibbleTrace (build : Build) (p : Byte) :
    writesOf (nibbleTrace build p) = [p, enableSet p, enableClear p] := rfl

/-- The three writes of a nibble have one falling edge of Enable, and leave Enable low. -/
theorem lcdNibblesFrom_nibbleTrace (build : Build) (p : Byte) (bs : List Byte) :
    lcdNibblesFrom false (writesOf (nibbleTrace build p) ++ bs) = linesNibble p :: lcdNibblesFrom false bs := by
  simp [writesOf_nibbleTrace, lcdNibblesFrom, linesNibble_enableClear]

theorem byteTrace_eq_nibbles (build : Build) (bl : Bool) (m : Mode) (v : Byte) :
    byteTrace build bl m v = nibbleTrace build (highPacket bl m v) ++ nibbleTrace build (lowPacket bl m v) := by
  rw [← sendByte_events, sendByte, List.map_append, nibble_events, nibble_events]

/-- A byte sent shows the display that byte in its mode, before whatever the events after it show. -/
theorem lcdView_byteTrace_append (build : Build) (bl : Bool) (m : Mode) (v : Byte) (es : List Event) :
    lcdView (writesOf (byteTrace build bl m v ++ es)) = (m, v) :: lcdView (writesOf es) := by
  simp only [lcdView, byteTrace_eq_nibbles, writesOf_append, List.append_assoc, lcdNibblesFrom_nibbleTrace,
    linesNibble_highPacket, linesNibble_lowPacket, pairNibbles, extract_high_append_low]

/-! ### SENDBYTE and the command bytes -/

/-- The operations that send one byte are internal, and their events are SENDBYTE's of that byte (R87, R130). -/
theorem sentByte_innerEvents (i : Instr) (m : Mode) (v : Byte) (h : sentByte i = some (m, v)) :
    isCommand i = false ∧ ∀ bl, innerEvents bl i = sendByte bl m v := by
  cases i <;> cases h <;> exact ⟨rfl, fun _ => rfl⟩

/-- No reset inside and six answers Ok: the events of a sent byte run to their end. -/
theorem exec_sentByte_answered (i : Instr) (m : Mode) (v : Byte) (s : State) (rest : List Answer)
    (hi : sentByte i = some (m, v)) (hq : s.Quiet 12) (ha : s.Answered 6 rest) :
    exec i s = .next (okSteps (sendByte s.cfg.backlight m v) s) := by
  obtain ⟨hinner, hevents⟩ := sentByte_innerEvents i m v hi
  have hrun : runPrims (sendByte s.cfg.backlight m v) s = .goOn (okSteps (sendByte s.cfg.backlight m v) s) :=
    runPrims_answered (sendByte s.cfg.backlight m v) s rest hq ha
  rw [exec_inner i s hinner, hevents, runInner, hrun, Run.settle]

/-- The events of such a byte are those of R136. -/
theorem sentByte_answered_events (i : Instr) (m : Mode) (v : Byte) (s t : State) (events : List Event) (rest : List Answer)
    (hi : sentByte i = some (m, v)) (hq : s.Quiet 12) (ha : s.Answered 6 rest) (h : exec i s = .next t)
    (ht : t.trace = s.trace ++ events) : events = byteTrace s.build s.cfg.backlight m v := by
  rw [exec_sentByte_answered i m v s rest hi hq ha] at h
  cases h
  rw [okSteps_trace, sendByte_events] at ht
  exact (List.append_cancel_left ht).symm

/-- Settles O35: the events are those of the one byte, and nothing comes after it. -/
theorem lcdViewOfSentByte : Obligations.LcdViewOfSentByte := by
  intro i m v s t events rest hi hq ha h ht
  have hevents := sentByte_answered_events i m v s t events rest hi hq ha h ht
  have hview := lcdView_byteTrace_append s.build s.cfg.backlight m v []
  rw [List.append_nil] at hview
  rw [hevents, hview]
  rfl

end Sys2Proof.Machine

/-!
The command word (30_encoding.md R90 to R92). Bits 31 to 30 alone choose the operation (the four `decode_cw_` lemmas), and a field of a word drawn
from its fields is read back by the library's lemmas on an extract of an append, so that the ignored bits, which no field reads, drop out.
-/

namespace Sys2Proof

/-! ### The operation that bits 31 to 30 choose -/

/-- Only a PRINT word announces text (R95). -/
theorem textBeats_eq_zero {w : BitVec 32} (h : w.extractLsb' 30 2 ≠ 0b01#2) : textBeats w = 0 := if_neg h

theorem textBeats_print {w : BitVec 32} (h : w.extractLsb' 30 2 = 0b01#2) : textBeats w = (w.extractLsb' 8 16).toNat := if_pos h

theorem decode_cw {w : BitVec 32} {text : List Byte} (h : text.length = textBeats w) :
    decode (.cw w text) = .ok (decodeCommand w text) := if_pos h

/-- A word that is no PRINT word is whole without text. -/
theorem decode_cw_nil {w : BitVec 32} (h : w.extractLsb' 30 2 ≠ 0b01#2) : decode (.cw w []) = .ok (decodeCommand w []) :=
  decode_cw (textBeats_eq_zero h).symm

theorem decode_cw_construct {w : BitVec 32} (h : w.extractLsb' 30 2 = 0b00#2) :
    decode (.cw w []) = .ok (.construct (w.extractLsb' 0 8) (w.extractLsb' 8 8) (w.getLsbD 16)) := by
  rw [decode_cw_nil (by simp [h])]
  simp [decodeCommand, h]

theorem decode_cw_print {w : BitVec 32} {text : List Byte} (h : w.extractLsb' 30 2 = 0b01#2)
    (hlen : text.length = (w.extractLsb' 8 16).toNat) : decode (.cw w text) = .ok (.print text (w.extractLsb' 0 8)) := by
  rw [decode_cw (hlen.trans (textBeats_print h).symm)]
  simp [decodeCommand, h]

theorem decode_cw_clear {w : BitVec 32} (h : w.extractLsb' 30 2 = 0b10#2) : decode (.cw w []) = .ok .clear := by
  rw [decode_cw_nil (by simp [h])]
  simp [decodeCommand, h]

theorem decode_cw_reserved {w : BitVec 32} (h : w.extractLsb' 30 2 = 0b11#2) :
    decode (.cw w []) = .ok (.cwReserved (w.extractLsb' 0 30)) := by
  rw [decode_cw_nil (by simp [h])]
  simp [decodeCommand, h]

/-! ### The fields of a word drawn from the top -/

/-- The fields of a word drawn as R90 draws CONSTRUCT. -/
theorem constructWord_fields (op : BitVec 2) (ignored : BitVec 13) (backlight : Bool) (height width : BitVec 8) (w : BitVec 32)
    (hw : w = op ++ ignored ++ BitVec.ofBool backlight ++ height ++ width) :
    w.extractLsb' 30 2 = op ∧ w.extractLsb' 0 8 = width ∧ w.extractLsb' 8 8 = height ∧ w.getLsbD 16 = backlight := by
  subst hw
  refine ⟨?_, BitVec.extractLsb'_append_eq_right, ?_, ?_⟩
  · calc
      _ = (op ++ ignored ++ BitVec.ofBool backlight ++ height).extractLsb' 22 2 := BitVec.extractLsb'_append_eq_of_le (by decide)
      _ = (op ++ ignored ++ BitVec.ofBool backlight).extractLsb' 14 2 := BitVec.extractLsb'_append_eq_of_le (by decide)
      _ = (op ++ ignored).extractLsb' 13 2 := BitVec.extractLsb'_append_eq_of_le (by decide)
      _ = op := BitVec.extractLsb'_append_eq_left
  · calc
      _ = (op ++ ignored ++ BitVec.ofBool backlight ++ height).extractLsb' 0 8 := BitVec.extractLsb'_append_eq_of_le (by decide)
      _ = height := BitVec.extractLsb'_append_eq_right
  · simp only [BitVec.getLsbD_append]
    simp

/-- The fields of a word drawn as R91 draws PRINT. -/
theorem printWord_fields (op : BitVec 2) (ignored : BitVec 6) (len : BitVec 16) (line : BitVec 8) (w : BitVec 32)
    (hw : w = op ++ ignored ++ len ++ line) :
    w.extractLsb' 30 2 = op ∧ w.extractLsb' 0 8 = line ∧ w.extractLsb' 8 16 = len := by
  subst hw
  refine ⟨?_, BitVec.extractLsb'_append_eq_right, ?_⟩
  · calc
      _ = (op ++ ignored ++ len).extractLsb' 22 2 := BitVec.extractLsb'_append_eq_of_le (by decide)
      _ = (op ++ ignored).extractLsb' 6 2 := BitVec.extractLsb'_append_eq_of_le (by decide)
      _ = op := BitVec.extractLsb'_append_eq_left
  · calc
      _ = (op ++ ignored ++ len).extractLsb' 0 16 := BitVec.extractLsb'_append_eq_of_le (by decide)
      _ = len := BitVec.extractLsb'_append_eq_right

/-- Settles O4: the operation and the fields of each word are read off where the word was drawn. -/
theorem commandWordFields : Obligations.CommandWordFields := by
  refine ⟨fun ignored backlight height width => ?_, fun ignored len line text hlen => ?_, fun ignored => ?_, fun payload => ?_⟩
  · obtain ⟨hop, hwidth, hheight, hbacklight⟩ := constructWord_fields 0b00#2 ignored backlight height width _ rfl
    rw [decode_cw_construct hop, hwidth, hheight, hbacklight]
  · obtain ⟨hop, hline, hlen'⟩ := printWord_fields 0b01#2 ignored len line _ rfl
    rw [decode_cw_print hop (hlen.trans (congrArg BitVec.toNat hlen').symm), hline]
  · exact decode_cw_clear BitVec.extractLsb'_append_eq_left
  · rw [decode_cw_reserved BitVec.extractLsb'_append_eq_left, BitVec.extractLsb'_append_eq_right]

end Sys2Proof

/-!
CONSTRUCT answered Ok (40_construct.md R112, R113). An accepted operation whose writes are all answered Ok leaves what `accepted_answered_fields`
says; what CONSTRUCT adds is the number of its events and writes: the power-up wait, and twelve events with six writes for each byte of INIT.
-/

namespace Sys2Proof.Machine

theorem constructTrace_length (build : Build) (bl : Bool) : (constructTrace build bl).length = 73 := by
  rw [constructTrace, List.length_cons, flatMap_byteTrace_length]; rfl

theorem writesOf_constructTrace_length (build : Build) (bl : Bool) : (writesOf (constructTrace build bl)).length = 36 := by
  rw [constructTrace, writesOf, flatMap_byteTrace_writes]; rfl

/-- Settles O13: CONSTRUCT is accepted in Uninitialized, and the premises cover its 73 events and 36 writes. -/
theorem constructSucceeds : Obligations.ConstructSucceeds := by
  intro s width height backlight rest hphase hbusy hquiet hanswered
  have hevents : (operationTrace (.construct width height backlight) s).length = 73 := constructTrace_length s.build backlight
  have hwrites : (writesOf (operationTrace (.construct width height backlight) s)).length = 36 :=
    writesOf_constructTrace_length s.build backlight
  obtain ⟨t, hexec, htrace, hstatus, hidle, hop, hresults, hanswers, hwork, hcfg, _, hready, hrst, _⟩ :=
    accepted_answered_fields (.construct width height backlight) s rest (congrArg some hphase.symm) hbusy
      (hevents ▸ hquiet) (hwrites ▸ hanswered)
  exact ⟨t, hexec, htrace, hcfg, hready, hstatus, hidle, hop, hresults, hanswers, hwork, hevents ▸ hrst⟩

end Sys2Proof.Machine

/-!
The overlay invariant (41_sendbyte_overlay.md R131, R132). The bytes of SENDBYTE carry the backlight bit they are formed with (`sendByte_carries`), and
so do the writes of a queue that meets the invariant (`expand_carries`). A run of such events is `Overlaid` from its beginning to its end
(`runInner_overlaid`), which is lifted to command words and to the step.
-/

namespace Sys2Proof.Machine

/-! ### The backlight bit of a byte sent -/

/-- A piece of work that, if it is a write, has the backlight bit `bl`. -/
def PrimCarries (bl : Bool) (p : Prim) : Prop := ∀ place b, p = .write place b → b.getLsbD 3 = bl

/-- An event that, if it is a write, has the backlight bit `bl`, whatever its answer. -/
def EventCarries (bl : Bool) (e : Event) : Prop := ∀ b r, e = .write b r → b.getLsbD 3 = bl

theorem PrimCarries.wait (bl : Bool) (w : Wait) : PrimCarries bl (.wait w) := nofun

theorem PrimCarries.report (bl : Bool) : PrimCarries bl .report := nofun

theorem PrimCarries.write {bl : Bool} {b : Byte} (h : b.getLsbD 3 = bl) (place : Place) : PrimCarries bl (.write place b) := by
  rintro _ _ ⟨⟩
  exact h

theorem PrimCarries.okEvent {bl : Bool} {p : Prim} (h : PrimCarries bl p) (build : Build) : EventCarries bl (okEvent build p) := by
  intro b r he
  cases p with
  | wait w => cases w <;> cases he
  | report => cases he
  | write place c => cases he; exact h place b rfl

theorem highPacket_backlight (bl : Bool) (m : Mode) (v : Byte) : (highPacket bl m v).getLsbD 3 = bl := by
  cases bl <;> cases m <;> simp [highPacket, modeBit, blMask, Config.modeCmd, Config.modeData, Config.hiMask, Config.blOn, Config.blOff]

theorem lowPacket_backlight (bl : Bool) (m : Mode) (v : Byte) : (lowPacket bl m v).getLsbD 3 = bl := by
  cases bl <;> cases m <;> simp [lowPacket, modeBit, blMask, Config.modeCmd, Config.modeData, Config.hiMask, Config.blOn, Config.blOff]

theorem enableSet_backlight (p : Byte) : (enableSet p).getLsbD 3 = p.getLsbD 3 := by
  simp [enableSet, Config.enableBit]

theorem enableClear_backlight (p : Byte) : (enableClear p).getLsbD 3 = p.getLsbD 3 := by
  simp [enableClear, Config.enableBit]

/-- The three writes of a nibble have the backlight bit of its packet: Enable is another bit (R85). -/
theorem nibble_carries {bl : Bool} {p : Byte} (h : p.getLsbD 3 = bl) : ∀ q ∈ nibble p, PrimCarries bl q := by
  simp only [nibble, pulse, List.forall_mem_cons]
  exact ⟨.write h _, .wait _ _, .write ((enableSet_backlight p).trans h) _, .wait _ _, .write ((enableClear_backlight p).trans h) _,
    .wait _ _, List.forall_mem_nil _⟩

theorem sendByte_carries (bl : Bool) (m : Mode) (v : Byte) : ∀ p ∈ sendByte bl m v, PrimCarries bl p :=
  List.forall_mem_append.mpr ⟨nibble_carries (highPacket_backlight bl m v), nibble_carries (lowPacket_backlight bl m v)⟩

/-- An entry of the queue is expanded with the backlight bit, or is one write that has it already. -/
theorem expand_carries (bl : Bool) (item : Item) (h : ∀ p, item = .prim p → PrimCarries bl p) :
    ∀ p ∈ expand bl item, PrimCarries bl p := by
  cases item with
  | prim p => exact List.forall_mem_singleton.mpr (h p rfl)
  | uop w => exact sendByte_carries bl _ _
  | lcdcmd b => exact sendByte_carries bl .command b

/-- The single events of an operation are its wait and its report: every write comes of a byte sent (R110, R170, R176). -/
theorem program_prim_carries (bl : Bool) (op : Op) (latch : Latch) (p : Prim) (h : Item.prim p ∈ program op latch) :
    PrimCarries bl p := by
  cases op with
  | idle => cases h
  | construct =>
    obtain rfl : p = .wait .powerUp := by simpa [program] using h
    exact .wait _ _
  | print =>
    cases hline : Config.lineByte latch.line with
    | none =>
      obtain rfl : p = .report := by simpa [program, addressStep, hline] using h
      exact .report bl
    | some b => simp [program, addressStep, hline] at h
  | clear => simp [program] at h

/-- Every write of a public operation carries the configured backlight. -/
theorem events_carry (s : State) : ∀ p ∈ s.events, PrimCarries s.cfg.backlight p := by
  intro p hp
  obtain ⟨item, hitem, hp⟩ := List.mem_flatMap.mp hp
  refine expand_carries _ item (fun q hq => ?_) p hp
  subst hq
  exact program_prim_carries _ _ _ q hitem

/-! ### Writes under a configuration -/

/-- On the way from `s` to `t` every write carried the backlight bit of `cfg`, which is the configuration of `t` if no reset was taken. -/
structure Overlaid (cfg : Cfg) (s t : State) : Prop where
  added : ∃ events, t.trace = s.trace ++ events ∧ ∀ e ∈ events, EventCarries cfg.backlight e
  cfg_eq : NoReset s t → t.cfg = cfg

/-- Nothing was written. -/
theorem Overlaid.silent {s t : State} (htrace : t.trace = s.trace) (hcfg : t.cfg = s.cfg) : Overlaid s.cfg s t :=
  ⟨⟨[], by simp [htrace]⟩, fun _ => hcfg⟩

/-- Only the trace and the resets still to come count at the beginning. -/
theorem Overlaid.congr_left {cfg : Cfg} {s s' t : State} (h : Overlaid cfg s t) (htrace : s.trace = s'.trace)
    (hrst : s.rst.length = s'.rst.length) : Overlaid cfg s' t :=
  ⟨htrace ▸ h.added, fun hn => h.cfg_eq (hn.trans hrst.symm)⟩

theorem Overlaid.congr_right {cfg : Cfg} {s t t' : State} (h : Overlaid cfg s t) (htrace : t'.trace = t.trace)
    (hcfg : t'.cfg = t.cfg) (hrst : t'.rst = t.rst) : Overlaid cfg s t' :=
  ⟨htrace ▸ h.added, fun hn => hcfg.trans (h.cfg_eq (by rw [NoReset, ← hrst]; exact hn))⟩

theorem Overlaid.after_okStep {cfg : Cfg} {p : Prim} {s t : State} (hp : PrimCarries cfg.backlight p)
    (h : Overlaid cfg (okStep s p) t) : Overlaid cfg s t := by
  obtain ⟨events, htrace, hcarry⟩ := h.added
  refine ⟨⟨okEvent s.build p :: events, by simp [htrace], ?_⟩, fun hn => h.cfg_eq (hn.trans (by simp))⟩
  exact List.forall_mem_cons.mpr ⟨hp.okEvent s.build, hcarry⟩

/-- A write answered Err carries the bit like any other. -/
theorem failed_overlaid {s : State} {b : Byte} (h : b.getLsbD 3 = s.cfg.backlight) : Overlaid s.cfg s (s.failed b) := by
  refine ⟨⟨[.write b .err], s.failed_trace b, List.forall_mem_singleton.mpr ?_⟩, fun _ => s.failed_cfg b⟩
  rintro _ _ ⟨⟩
  exact h

/-- A reset makes no event; `u` is `s.asked p` or `s.askedNext`. -/
theorem hardwareReset_overlaid (cfg : Cfg) {s u : State} (cut : Bool) (hu : u.rst = s.rst) (htrace : u.trace = s.trace)
    (hdue : s.rst.head? = some 0) : Overlaid cfg s (u.hardwareReset cut) :=
  ⟨⟨[], by simp [htrace]⟩, fun hn => absurd hn (hardwareReset_taken cut hu hdue).taken.ne⟩

/-! ### Runs, command words and steps -/

/-- Events that carry the bit are run under the configuration, however far they come. -/
theorem runInner_overlaid (ps : List Prim) (s t : State) (hps : ∀ p ∈ ps, PrimCarries s.cfg.backlight p)
    (h : runInner ps s = .next t) : Overlaid s.cfg s t := by
  induction ps generalizing s with
  | nil => cases h; exact .silent rfl rfl
  | cons p ps ih =>
    obtain ⟨hp, hps⟩ := List.forall_mem_cons.mp hps
    rcases runPrim_cases p s with ⟨hdue, hr⟩ | ⟨_, ⟨hr, _⟩ | ⟨place, b, _, _, hr⟩ | ⟨place, b, hw, _, hr⟩⟩ <;>
      simp only [runInner, runPrims, hr, Run.settle] at h
    · cases h; exact hardwareReset_overlaid _ true (s.asked_rst p) (s.asked_trace p) hdue
    · have hrest : Overlaid (okStep s p).cfg (okStep s p) t := ih _ (by simpa using hps) h
      exact .after_okStep hp (okStep_cfg s p ▸ hrest)
    · cases h; exact .silent rfl rfl
    · cases h; exact failed_overlaid (hp place b hw)

/-- A public operation comes as far as its events run alone, and may complete then. -/
theorem finish_next (r : Run) (t : State) (h : r.finish = .next t) : ∃ u, r.settle = .next u ∧ (t = u ∨ t = u.complete) := by
  cases r <;> cases h
  · exact ⟨_, rfl, .inr rfl⟩
  · exact ⟨_, rfl, .inl rfl⟩
  · exact ⟨_, rfl, .inl rfl⟩

theorem operate_overlaid (s t : State) (h : s.operate = .next t) : Overlaid s.cfg s t := by
  obtain ⟨u, hu, ht⟩ := finish_next _ t h
  have hrun : Overlaid s.cfg s u := runInner_overlaid s.events s u (events_carry s) hu
  rcases ht with rfl | rfl
  · exact hrun
  · exact hrun.congr_right u.complete_trace u.complete_cfg u.complete_rst

/-- A command word writes under the configuration of its acceptance, which for CONSTRUCT is its own (R131). -/
theorem exec_command_overlaid (i : Instr) (s t : State) (hc : isCommand i = true) (h : exec i s = .next t) :
    ∃ cfg, Overlaid cfg s t := by
  by_cases ha : acceptedIn i = some s.phase
  · cases hb : s.busy with
    | true => simp only [exec_command i s hc, hb, if_true] at h; cases h; exact ⟨_, .silent rfl rfl⟩
    | false =>
      rw [exec_accepted i s ha hb] at h
      exact ⟨_, (operate_overlaid _ t h).congr_left (begun_trace i s) (by simp)⟩
  · rcases exec_not_accepted i s t hc ha h with rfl | rfl
    · exact ⟨_, .silent rfl rfl⟩
    · exact ⟨_, .silent rfl rfl⟩

/-- Every step writes under one configuration, if the writes held in the queue carry the configured bit. -/
theorem step_overlaid (s t : State) (hqueue : ∀ place b, Item.prim (.write place b) ∈ s.work → b.getLsbD 3 = s.cfg.backlight)
    (h : step s = .next t) : ∃ cfg, Overlaid cfg s t := by
  rcases step_cases s t h with ⟨hdue, rfl⟩ | ⟨_, hitem | ⟨_, _, rfl⟩ | ⟨_, _, rx, n, _, rfl⟩ | ⟨_, _, w, text, n, _, hex⟩⟩
  · exact ⟨s.cfg, hardwareReset_overlaid _ _ s.askedNext_rst s.askedNext_trace hdue⟩
  · obtain ⟨item, rest, u, hwork, _, hrun, rfl⟩ := hitem
    have hcarry : ∀ p ∈ expand s.cfg.backlight item, PrimCarries s.cfg.backlight p := by
      refine expand_carries _ item fun p hp place b hw => hqueue place b ?_
      rw [hwork, ← hw, ← hp]
      exact List.mem_cons_self
    have hinner : Overlaid s.cfg { s with work := rest } u := runInner_overlaid _ { s with work := rest } u hcarry hrun
    exact ⟨s.cfg, (hinner.congr_left (s' := s) rfl rfl).congr_right u.completed_trace u.completed_cfg u.completed_rst⟩
  · exact ⟨_, .silent s.complete_trace s.complete_cfg⟩
  · exact ⟨_, .silent (s.transfer_trace rx n) (s.transfer_cfg rx n)⟩
  · obtain ⟨cfg, hover⟩ := exec_command_overlaid _ _ t (decodeCommand_isCommand w text) hex
    exact ⟨cfg, hover.congr_left (s.transfer_trace none n) (by simp)⟩

/-- Settles O30: with no reset, the configuration the step wrote under is the one it leaves. -/
theorem backlightInEveryStep : Obligations.BacklightInEveryStep := by
  intro s t events hinv h hn htrace b r hb
  obtain ⟨cfg, hover⟩ := step_overlaid s t hinv.backlight h
  obtain ⟨added, hadded, hcarry⟩ := hover.added
  obtain rfl : events = added := List.append_cancel_left (htrace.symm.trans hadded)
  rw [hover.cfg_eq hn]
  exact hcarry _ hb b r rfl

end Sys2Proof.Machine

/-!
PRINT and CLEAR answered Ok (43_print_clear.md R170 to R178). Every PRINT sends its characters; what comes before them is the address byte or the
report, and `print_answered` takes the head of the trace as a parameter so that both kinds of line are one argument. That CLEAR repeats itself is
`clear_answered` twice. That no trace depends on the past is because the events of a run are a function of the build, the work, the answers and the
resets alone (`runEvents`, tied to the machine by `runInner_trace`).
-/

namespace Sys2Proof.Machine

/-! ### PRINT -/

/-- The lines that have an address byte begin with it (R171). -/
theorem printTrace_valid (build : Build) (bl : Bool) (text : List Byte) (line : BitVec 8) (address : Byte)
    (h : line = 1#8 ∧ address = 0x80 ∨ line = 2#8 ∧ address = 0xC0) :
    printTrace build bl text line = byteTrace build bl .command address ++ text.flatMap (byteTrace build bl .data) := by
  rcases h with ⟨rfl, rfl⟩ | ⟨rfl, rfl⟩ <;> rfl

/-- Any other line begins with the report in its place (R172). -/
theorem printTrace_invalid (build : Build) (bl : Bool) (text : List Byte) (line : BitVec 8) (h1 : line ≠ 1#8) (h2 : line ≠ 2#8) :
    printTrace build bl text line = [.invalidLine] ++ text.flatMap (byteTrace build bl .data) := by
  rw [printTrace, if_neg h1, if_neg h2]

/-- A PRINT answered Ok, `head` being what it emits before its characters. -/
theorem print_answered (s : State) (text : List Byte) (line : BitVec 8) (head : List Event) (rest : List Answer)
    (htrace : printTrace s.build s.cfg.backlight text line = head ++ text.flatMap (byteTrace s.build s.cfg.backlight .data))
    (hphase : s.phase = .ready) (hbusy : s.busy = false) (hquiet : s.Quiet (head.length + 12 * text.length))
    (hanswered : s.Answered ((writesOf head).length + 6 * text.length) rest) :
    ∃ t, exec (.print text line) s = .next t ∧
      t.trace = s.trace ++ head ++ text.flatMap (byteTrace s.build s.cfg.backlight .data) ∧
      t.status = softStatus (.print text line) ∧ t.busy = false ∧ t.seq.op = .idle ∧ t.phase = .ready ∧ t.cfg = s.cfg ∧
      t.latch = { text := text, line := line } ∧ t.results = s.results ++ [softStatus (.print text line)] ∧
      t.answers = rest ∧ t.work = s.work := by
  have htrace : operationTrace (.print text line) s = _ := htrace
  have hevents : (operationTrace (.print text line) s).length = head.length + 12 * text.length := by
    rw [htrace, List.length_append, flatMap_byteTrace_length]
  have hwrites : (writesOf (operationTrace (.print text line) s)).length = (writesOf head).length + 6 * text.length := by
    rw [htrace, writesOf_append, List.length_append, flatMap_byteTrace_writes]
  obtain ⟨t, hexec, hadded, hstatus, hidle, hop, hresults, hanswers, hwork, hcfg, hlatch, hready, _, _⟩ :=
    accepted_answered_fields (.print text line) s rest (congrArg some hphase.symm) hbusy (hevents ▸ hquiet) (hwrites ▸ hanswered)
  exact ⟨t, hexec, by rw [hadded, htrace, List.append_assoc], hstatus, hidle, hop, hready.trans hphase, hcfg, hlatch, hresults,
    hanswers, hwork⟩

/-- Settles O15: the head is the address byte, of twelve events and six writes, and the line is not reported. -/
theorem printValidLine : Obligations.PrintValidLine := by
  intro s text line address rest hline hphase hbusy hquiet hanswered
  have hsoft : softStatus (.print text line) = 0b000 := if_pos (hline.imp And.left And.left)
  have hrun := print_answered s text line (byteTrace s.build s.cfg.backlight .command address) rest
    (printTrace_valid s.build s.cfg.backlight text line address hline) hphase hbusy
  rw [hsoft] at hrun
  rw [Nat.mul_add] at hquiet hanswered
  exact hrun hquiet hanswered

/-- Settles O16: the head is the report, which is no write. -/
theorem printInvalidLine : Obligations.PrintInvalidLine := by
  intro s text line rest h1 h2 hphase hbusy hquiet hanswered
  have hsoft : softStatus (.print text line) = 0b010 := if_neg (not_or.mpr ⟨h1, h2⟩)
  have hwrites : (writesOf [Event.invalidLine]).length + 6 * text.length = 6 * text.length := Nat.zero_add _
  have hrun := print_answered s text line [.invalidLine] rest
    (printTrace_invalid s.build s.cfg.backlight text line h1 h2) hphase hbusy hquiet
  rw [hsoft, hwrites] at hrun
  exact hrun hanswered

/-! ### CLEAR after CLEAR -/

/-- No reset within `n + m` events: after `n` of them, none within `m`. -/
theorem Quiet_after {n m : Nat} {s t : State} (h : s.Quiet (n + m)) (ht : t.rst = rstAfter n s.rst) : t.Quiet m := by
  intro k hk
  cases hr : s.rst with
  | nil => simp [ht, hr, rstAfter] at hk
  | cons j js =>
    have hj : n + m ≤ j := h j (by rw [hr]; rfl)
    have hk : j - n = k := by simpa [ht, hr, rstAfter] using hk
    omega

/-- A CLEAR answered Ok leaves the block as ready for the next one. -/
theorem clear_answered (s : State) (rest : List Answer) (hphase : s.phase = .ready) (hbusy : s.busy = false) (hquiet : s.Quiet 12)
    (hanswered : s.Answered 6 rest) :
    ∃ t, exec .clear s = .next t ∧ t.trace = s.trace ++ clearTrace s.build s.cfg.backlight ∧ t.phase = .ready ∧
      t.busy = false ∧ t.cfg = s.cfg ∧ t.build = s.build ∧ t.answers = rest ∧ t.rst = rstAfter 12 s.rst := by
  obtain ⟨t, hexec, htrace, _, hidle, _, _, hanswers, _, hcfg, _, hready, hrst, hbuild⟩ :=
    accepted_answered_fields .clear s rest (congrArg some hphase.symm) hbusy hquiet hanswered
  exact ⟨t, hexec, htrace, hready.trans hphase, hidle, hcfg, hbuild, hanswers, hrst⟩

/-! ### The events of a run -/

/-- The events of a run of `ps`, from the answers and the resets to come alone: up to a reset, a write answered Err or a write not answered. -/
def runEvents (build : Build) : List Prim → List Answer → List Nat → List Event
  | [], _, _ => []
  | p :: ps, answers, rst =>
    if rst.head? = some 0 then []
    else
      match p, answers with
      | .write _ _, [] => []
      | .write _ b, .err :: _ => [.write b .err]
      | .write _ b, .ok :: answers => .write b .ok :: runEvents build ps answers (rstAfter 1 rst)
      | .wait w, answers => waitEvent build w :: runEvents build ps answers (rstAfter 1 rst)
      | .report, answers => .invalidLine :: runEvents build ps answers (rstAfter 1 rst)

theorem runEvents_okStep (p : Prim) (ps : List Prim) (s : State) (hq : s.rst.head? ≠ some 0)
    (ha : (∀ pl b, p ≠ .write pl b) ∨ s.answers.head? = some .ok) :
    runEvents s.build (p :: ps) s.answers s.rst =
      okEvent s.build p :: runEvents s.build ps (okStep s p).answers (okStep s p).rst := by
  cases p with
  | wait w => simp [runEvents, hq, okStep, okEvent]
  | report => simp [runEvents, hq, okStep, okEvent]
  | write pl b =>
    obtain ⟨answers, hans⟩ : ∃ answers, s.answers = .ok :: answers := by simpa [List.head?_eq_some_iff] using ha
    simp [runEvents, hq, hans, okStep, okEvent]

/-- Whatever stops a run, its events are `runEvents`. -/
theorem runInner_trace (ps : List Prim) (s t : State) (h : runInner ps s = .next t) :
    t.trace = s.trace ++ runEvents s.build ps s.answers s.rst := by
  induction ps generalizing s with
  | nil => cases h; simp [runEvents]
  | cons p ps ih =>
    rcases runPrim_cases p s with ⟨hdue, hr⟩ | ⟨hq, ⟨hr, ha⟩ | ⟨pl, b, rfl, ha, hr⟩ | ⟨pl, b, rfl, ha, hr⟩⟩ <;>
      simp only [runInner, runPrims, hr, Run.settle] at h
    · cases h; simp [runEvents, hdue]
    · rw [ih _ h, runEvents_okStep p ps s hq ha]; simp
    · cases h; simp [runEvents, hq, ha]
    · obtain ⟨answers, hans⟩ := List.head?_eq_some_iff.mp ha
      cases h; simp [runEvents, hq, hans]

theorem operate_trace (s t : State) (h : s.operate = .next t) :
    t.trace = s.trace ++ runEvents s.build s.events s.answers s.rst := by
  obtain ⟨u, hu, ht⟩ := finish_next _ t h
  have hrun := runInner_trace s.events s u hu
  rcases ht with rfl | rfl
  · exact hrun
  · exact u.complete_trace.trans hrun

/-! ### The events of a command word -/

/-- The events of a command word: none unless the idle block accepts it. -/
def commandEvents (i : Instr) (s : State) : List Event :=
  if s.busy = false ∧ acceptedIn i = some s.phase then runEvents s.build (begun i s).events s.answers s.rst else []

theorem exec_command_trace (i : Instr) (s t : State) (hc : isCommand i = true) (h : exec i s = .next t) :
    t.trace = s.trace ++ commandEvents i s := by
  by_cases ha : acceptedIn i = some s.phase
  · cases hb : s.busy with
    | true => simp only [exec_command i s hc, hb, if_true] at h; cases h; simp [commandEvents, hb]
    | false =>
      rw [exec_accepted i s ha hb] at h
      simpa [commandEvents, hb, ha] using operate_trace _ t h
  · rcases exec_not_accepted i s t hc ha h with rfl | rfl <;> simp [commandEvents, ha]

/-- The work of an accepted operation is fixed by its operands and the backlight: only PRINT reads the latch, and writes it first. -/
theorem begun_events_congr (i : Instr) (s s' : State) (p : Phase) (hi : acceptedIn i = some p)
    (hbl : s'.cfg.backlight = s.cfg.backlight) : (begun i s').events = (begun i s).events := by
  cases i with
  | construct width height backlight => rfl
  | print text line =>
    exact congrArg (fun bl => (program .print { text := text, line := line }).flatMap (expand bl)) hbl
  | clear => exact congrArg (fun bl => [Item.lcdcmd 0x01].flatMap (expand bl)) hbl
  | _ => cases hi

theorem commandEvents_congr (i : Instr) (s s' : State) (hphase : s'.phase = s.phase) (hbusy : s'.busy = s.busy)
    (hbl : s'.cfg.backlight = s.cfg.backlight) (hbuild : s'.build = s.build) (hanswers : s'.answers = s.answers)
    (hrst : s'.rst = s.rst) : commandEvents i s' = commandEvents i s := by
  rw [commandEvents, commandEvents, hphase, hbusy, hbuild, hanswers, hrst]
  split
  · next hacc => rw [begun_events_congr i s s' _ hacc.2 hbl]
  · rfl

/-- Settles O18: CLEAR leaves what the next CLEAR needs, and the events of a command word are `commandEvents`. -/
theorem operationsRepeat : Obligations.OperationsRepeat := by
  refine ⟨fun s rest hphase hbusy hquiet hanswered => ?_,
    fun i s s' t t' hc hphase hbusy hbl hbuild hanswers hrst h h' => ⟨commandEvents i s, exec_command_trace i s t hc h, ?_⟩⟩
  · obtain ⟨t, hexec, htrace, hready, hidle, hcfg, hbuild, hanswers, hrst⟩ :=
      clear_answered s (List.replicate 6 .ok ++ rest) hphase hbusy (fun k hk => (hquiet k hk).trans' (by decide)) hanswered
    obtain ⟨u, hexec', htrace', _⟩ := clear_answered t rest hready hidle (Quiet_after hquiet hrst) hanswers
    rw [hcfg, hbuild] at htrace'
    exact ⟨t, u, hexec, hexec', htrace, htrace', rfl, rfl⟩
  · rw [exec_command_trace i s' t' hc h', commandEvents_congr i s s' hphase hbusy hbl hbuild hanswers hrst]

end Sys2Proof.Machine

/-!
A write that is not answered (44_write_adapter.md R199). The legal write at the head of the queue is put on the port and goes back to the head, so that
the step changes nothing but the request (`step_write_unanswered`); the state it leaves meets the same premises, and putting the request there again
changes nothing at all.
-/

namespace Sys2Proof.Machine

/-- A packet that belongs to its place is a word of its port's format (R81); the converse is in `decodePkt_ok`. -/
theorem decodePkt_of_legal (place : Place) (b : Byte) (h : primLegal (.write place b) = true) :
    ∃ i, decodePkt place b = .ok i := by
  cases place <;>
  · simp only [primLegal, Bool.and_eq_true, Bool.not_eq_true'] at h
    obtain ⟨hrw, henable⟩ := h
    simp only [decodePkt, hrw, henable, Bool.false_eq_true, if_false, Except.ok.injEq, exists_eq']

/-- A legal write at the head of the queue is run as that one write. -/
theorem runItem_write (place : Place) (b : Byte) (s : State) (h : primLegal (.write place b) = true) :
    runItem (.prim (.write place b)) s = runInner [.write place b] s := by
  obtain ⟨i, hi⟩ := decodePkt_of_legal place b h
  obtain ⟨_, hinner, hevents⟩ := decodePkt_ok place b i hi
  calc
    runItem (.prim (.write place b)) s = exec i s := by simp only [runItem, fetch, decode, hi]
    _ = runInner [.write place b] s := by rw [exec_inner i s hinner, hevents]

/-- A write that is not answered stands on the port, and in the queue (R199). -/
theorem runInner_write_unanswered (place : Place) (b : Byte) (s : State) (hreset : s.rst.head? ≠ some 0) (hans : s.answers = []) :
    runInner [.write place b] s = .next { s with wr := some b, work := .prim (.write place b) :: s.work } := by
  have hquiet : s.Quiet 1 := fun k hk => Nat.one_le_iff_ne_zero.mpr fun hk0 => hreset (hk0 ▸ hk)
  exact congrArg Run.settle (runPrims_unanswered [] [] place b s hquiet hans)

/-- With no reset due, a step runs the entry at the head of the queue. -/
theorem step_queue (s : State) (item : Item) (rest : List Item) (hreset : s.rst.head? ≠ some 0) (hwork : s.work = item :: rest) :
    step s = endOfWork (runItem item { s with work := rest }) := by
  simp [step, cycle, State.resetDue, hreset, hwork]

/-- What is left in the queue keeps the operation from completing. -/
theorem State.completed_of_work_ne_nil (s : State) (h : s.work ≠ []) : s.completed = s := by
  simp [State.completed, h]

/-- A write that is not answered: the step changes the request on the port, and nothing else. -/
theorem step_write_unanswered (s : State) (place : Place) (b : Byte) (rest : List Item) (hreset : s.rst.head? ≠ some 0)
    (hwork : s.work = .prim (.write place b) :: rest) (hlegal : primLegal (.write place b) = true) (hans : s.answers = []) :
    step s = .next { s with wr := some b } := by
  have hheld : s.work ≠ [] := by simp [hwork]
  calc
    step s = endOfWork (runInner [.write place b] { s with work := rest }) := by
      rw [step_queue s _ rest hreset hwork, runItem_write place b _ hlegal]
    _ = .next ({ s with wr := some b } : State).completed := by
      rw [runInner_write_unanswered place b { s with work := rest } hreset hans, ← hwork, endOfWork]
    _ = .next { s with wr := some b } := by
      rw [State.completed_of_work_ne_nil { s with wr := some b } hheld]

/-- Settles O12: the state with the request on its port meets the premises again, with the same request. -/
theorem unansweredWriteHolds : Obligations.UnansweredWriteHolds := by
  intro s place b rest hreset hwork hlegal hans
  exact ⟨step_write_unanswered s place b rest hreset hwork hlegal hans,
    step_write_unanswered { s with wr := some b } place b rest hreset hwork hlegal hans⟩

end Sys2Proof.Machine

/-!
The exceptions (60_exceptions.md). A refusal (R225) is an equation of states: `exec_refused` for a command word, `step_request` for the text beats
that a refused PRINT takes with it. A bus error (R212) falls at a write of the operation's events, which `split_at_write` finds and
`accepted_err_at` ends the operation at; both statements about it are read off the fields of that one state.
-/

namespace Sys2Proof.Machine

/-! ### The refusals -/

/-- A command word that the idle block's phase does not accept is refused (R225). -/
theorem exec_refused (i : Instr) (s : State) (hc : isCommand i = true) (hbusy : s.busy = false) (ha : acceptedIn i ≠ some s.phase) :
    exec i s = .next s.refuse := by
  simp [exec_command i s hc, hbusy, ha]

/-- Transfers that no reset comes before the last of are offered to the port. -/
theorem offered_of_quiet (s : State) (taken rest : List (BitVec 32)) (hquiet : s.Quiet taken.length) (hcmd : s.cmd = taken ++ rest) :
    ∃ more, s.offered = taken ++ more := by
  cases hr : s.rst with
  | nil => exact ⟨rest, by simp [State.offered, hr, hcmd]⟩
  | cons k ks =>
    have hk : taken.length ≤ k := hquiet k (by simp [hr])
    exact ⟨rest.take (k - taken.length), by simp [State.offered, hr, hcmd, List.take_append, List.take_of_length_le hk]⟩

/-- The beats a word announces make the request whole, and those behind them are left. -/
theorem receive_whole (w : BitVec 32) (beats more : List (BitVec 32)) (hlen : beats.length = textBeats w) :
    receive none (w :: beats ++ more) = .request w (beats.map beatByte) (1 + beats.length) := by
  simp [receive, takeBeats, ← hlen]

/-- The idle block with no reset due and an empty queue looks at its command port. -/
theorem step_port (s : State) (hreset : s.rst.head? ≠ some 0) (hwork : s.work = []) (hbusy : s.busy = false) : step s = portCycle s := by
  simp [step, cycle, State.resetDue, hreset, hwork, hbusy]

/-- A whole request at the idle port is taken and run (R91, R260). -/
theorem step_request (s : State) (w : BitVec 32) (beats rest : List (BitVec 32)) (hquiet : s.Quiet (1 + beats.length))
    (hwork : s.work = []) (hbusy : s.busy = false) (hrx : s.rx = none) (hcmd : s.cmd = w :: beats ++ rest)
    (hlen : beats.length = textBeats w) :
    step s = fetch (.cw w (beats.map beatByte)) { s with cmd := rest, rst := rstAfter (1 + beats.length) s.rst } := by
  rw [Nat.add_comm] at hquiet
  obtain ⟨more, hoffered⟩ := offered_of_quiet s (w :: beats) rest hquiet hcmd
  have htransfer : s.transfer none (1 + beats.length) = { s with cmd := rest, rst := rstAfter (1 + beats.length) s.rst } := by
    simp [State.transfer, hcmd, Nat.add_comm 1, hrx]
  rw [step_port s (Quiet_ne hquiet) hwork hbusy, ← htransfer, portCycle, hrx, hoffered, receive_whole w beats more hlen]

/-- Settles O19: the refusal is `State.refuse`, and the step on a refused PRINT is the refusal of the word it took. -/
theorem refusedInWrongPhase : Obligations.RefusedInWrongPhase := by
  refine ⟨exec_refused, fun s w beats rest hquiet hwork hbusy hrx hphase hprint hcmd hlen => ?_⟩
  have hdecode := decode_cw_print (text := beats.map beatByte) hprint (by rw [List.length_map, hlen])
  rw [step_request s w beats rest hquiet hwork hbusy hrx hcmd (hlen.trans (textBeats_print hprint).symm), fetch, hdecode]
  exact exec_refused _ _ rfl hbusy (by simp [acceptedIn, hphase])

/-! ### The bus error -/

/-- Write number `k` of a sequence of events, with what comes before and after it. -/
theorem split_at_write (ps : List Prim) (k : Nat) (hk : k < writeCount ps) :
    ∃ pre pl b post, ps = pre ++ .write pl b :: post ∧ writeCount pre = k := by
  induction ps generalizing k with
  | nil => simp [writeCount] at hk
  | cons p ps ih =>
    cases p with
    | wait w =>
      obtain ⟨pre, pl, b, post, rfl, hpre⟩ := ih k hk
      exact ⟨.wait w :: pre, pl, b, post, rfl, hpre⟩
    | report =>
      obtain ⟨pre, pl, b, post, rfl, hpre⟩ := ih k hk
      exact ⟨.report :: pre, pl, b, post, rfl, hpre⟩
    | write pl b =>
      cases k with
      | zero => exact ⟨[], pl, b, ps, rfl, rfl⟩
      | succ k =>
        obtain ⟨pre, pl', b', post, rfl, hpre⟩ := ih k (Nat.lt_of_succ_lt_succ hk)
        exact ⟨.write pl b :: pre, pl', b', post, rfl, congrArg Nat.succ hpre⟩

/-- An accepted operation whose write number `k` is answered Err ends at that write, the events before it done (R212). -/
theorem accepted_err_at (i : Instr) (s : State) (k : Nat) (rest : List Answer) (ha : acceptedIn i = some s.phase)
    (hbusy : s.busy = false) (hquiet : s.Quiet (operationTrace i s).length) (hk : k < (writesOf (operationTrace i s)).length)
    (hanswered : s.AnsweredErr k rest) :
    ∃ pre pl b post, (begun i s).events = pre ++ .write pl b :: post ∧ writeCount pre = k ∧
      exec i s = .next ((okSteps pre (begun i s)).failed b) := by
  rw [← begun_events_writes i s _ ha] at hk
  obtain ⟨pre, pl, b, post, hevents, rfl⟩ := split_at_write _ k hk
  have hlen : pre.length + 1 ≤ (operationTrace i s).length := by
    rw [← begun_events_length i s _ ha, hevents]
    simp
  exact ⟨pre, pl, b, post, hevents, rfl,
    accepted_err i s pre post pl b rest ha hbusy hevents (fun j hj => hlen.trans (hquiet j hj)) hanswered⟩

/-- The status of a bus error in the middle of an accepted operation (R212, R218). -/
theorem statusBusError_okSteps_begun (i : Instr) (s : State) (ps : List Prim) (ha : acceptedIn i = some s.phase) :
    statusBusError (okSteps ps (begun i s)).seq.op (okSteps ps (begun i s)).latch.line = 0b001 ||| softStatus i := by
  rw [okSteps_seq_op, okSteps_latch, begun_op i s _ ha, statusBusError_begun i s _ ha]

/-- The answers left after a bus error at the write that follows `pre`. -/
theorem failed_okSteps_answers (pre : List Prim) (b : Byte) (s : State) (rest : List Answer)
    (hanswered : s.AnsweredErr (writeCount pre) rest) : ((okSteps pre s).failed b).answers = rest := by
  rw [State.failed_answers, okSteps_answers_of pre s (.err :: rest) hanswered, List.tail_cons]

/-- Settles O21: the events are split at write `k`, and the fields are those of `State.failed` there. -/
theorem busErrorEndsOperation : Obligations.BusErrorEndsOperation := by
  intro i s k rest ha hbusy hquiet hk hanswered
  obtain ⟨pre, pl, b, post, hevents, rfl, hexec⟩ := accepted_err_at i s k rest ha hbusy hquiet hk hanswered
  have hstatus := statusBusError_okSteps_begun i s pre ha
  have hanswers : ((okSteps pre (begun i s)).failed b).answers = rest :=
    failed_okSteps_answers pre b (begun i s) rest ((begun_answers i s).trans hanswered)
  refine ⟨_, pre.map (okEvent s.build), b, post.map (okEvent s.build), hexec, ?trace, (writeCount_eq s.build pre).symm, by simp,
    hstatus, ?results, rfl, rfl, by simp, rfl, rfl, hanswers⟩
  case trace =>
    rw [← begun_events i s _ ha, hevents, List.map_append]
    rfl
  case results => rw [State.failed_results, hstatus, okSteps_results, begun_results]

/-- With no reset to come none comes within any number of events. -/
theorem quiet_of_rst_nil {n : Nat} {s : State} (h : s.rst = []) : s.Quiet n := fun k hk => by simp [h] at hk

/-- Settles O22: the bus error leaves the phase, no reset to come and the answers for the next operation, which `accepted_answered_fields` then
runs. -/
theorem operationsGoOnAfterBusError : Obligations.OperationsGoOnAfterBusError := by
  intro i j s t k rest hi hj hbusy hrst hk hanswered hexec
  obtain ⟨pre, pl, b, post, -, rfl, hfailed⟩ := accepted_err_at i s k _ hi hbusy (quiet_of_rst_nil hrst) hk hanswered
  obtain rfl : t = (okSteps pre (begun i s)).failed b := by simpa [hexec] using hfailed
  have hanswers := failed_okSteps_answers pre b (begun i s) _ ((begun_answers i s).trans hanswered)
  have hphase : ((okSteps pre (begun i s)).failed b).phase = s.phase := by simp
  have hrst' : ((okSteps pre (begun i s)).failed b).rst = [] := by simp [okSteps_rst, hrst, rstAfter]
  obtain ⟨u, hexec', htrace, hstatus, hidle, -⟩ :=
    accepted_answered_fields j _ rest (hphase ▸ hj) rfl (quiet_of_rst_nil hrst') hanswers
  exact ⟨hphase, rfl, u, hexec', htrace, hstatus, hidle⟩

end Sys2Proof.Machine

/-!
The formats both ways (30_encoding.md). A command word encodes as `commandWordFields` draws it with its ignored bits zero; a packet and a `UOP` are
put together from the fields that their decoder reads; and the command bytes are a table of eight, gone through once in each direction.
-/

namespace Sys2Proof

open Sys2Proof.Machine

/-! ### Encoding, then decoding -/

/-- A text that `len` can count is counted by it (R91). -/
theorem textLength_toNat {text : List Byte} {line : BitVec 8} (h : WellFormed (.print text line)) :
    text.length = (BitVec.ofNat 16 text.length).toNat := by
  have hlen : text.length ≤ 65535 := of_decide_eq_true h
  rw [BitVec.toNat_ofNat, Nat.mod_eq_of_lt (by omega)]

theorem ofBit_bit (m : Mode) : Mode.ofBit m.bit = m := by cases m <;> rfl

theorem decodeUop_encode (m : Mode) (v : Byte) : decodeUop (BitVec.ofBool m.bit ++ v) = .sendbyte m v := by
  obtain ⟨_, hword, hmode, hvalue⟩ := Laws.TableBits.sendbyte m v
  cases hword
  rw [decodeUop, hmode, hvalue, ofBit_bit]

theorem decodePkt_pktByte (place : Place) (d : Nibble) (b e : Bool) (r : Mode) :
    decodePkt place (pktByte d b e r) = match place, e with
      | .present, false => .ok (.pktPresent d b r)
      | .eset, true => .ok (.pktEset d b r)
      | .eclr, false => .ok (.pktEclr d b r)
      | _, _ => .error .enableOutOfPlace := by
  revert d; cases place <;> cases b <;> cases e <;> cases r <;> decide

/-- Settles O1: each format gives back the fields it was drawn from. -/
theorem decodeOfEncode : Obligations.DecodeOfEncode := by
  obtain ⟨hconstruct, hprint, hclear, hreserved⟩ := commandWordFields
  intro i hwf
  cases i with
  | construct width height backlight => exact hconstruct 0 backlight height width
  | print text line => exact hprint 0 (BitVec.ofNat 16 text.length) line text (textLength_toNat hwf)
  | clear => exact hclear 0
  | cwReserved payload => exact hreserved payload
  | sendbyte mode value => exact congrArg Except.ok (decodeUop_encode mode value)
  | pktPresent d b r => exact decodePkt_pktByte .present d b false r
  | pktEset d b r => exact decodePkt_pktByte .eset d b true r
  | pktEclr d b r => exact decodePkt_pktByte .eclr d b false r
  | _ => rfl

/-! ### Decoding, then encoding -/

/-- The mode bit and the value make up the `UOP` (R88). -/
theorem encode_decodeUop (w : BitVec 9) : encode (decodeUop w) = .uop w := by
  revert w; decide

theorem encode_of_decodeLcdCmd (b : Byte) (i : Instr) (h : decodeLcdCmd b = .ok i) : encode i = .lcdcmd b := by
  unfold decodeLcdCmd at h
  repeat' split at h
  all_goals cases h
  all_goals subst b; rfl

/-- The one write that a packet makes is its encoding at its place. -/
theorem encode_of_innerEvents_eq_write (i : Instr) (place : Place) (b : Byte) (hc : isCommand i = false)
    (h : innerEvents false i = [.write place b]) : encode i = .pkt place b := by
  cases i with
  | pktPresent | pktEset | pktEclr => cases h; rfl
  | construct | print | clear | cwReserved => cases hc
  | _ => cases h

/-- Settles O2: on each of the three formats the decoded fields make up the word again. -/
theorem encodeOfDecodeInternal : Obligations.EncodeOfDecodeInternal := by
  refine ⟨fun w i h => ?_, encode_of_decodeLcdCmd, fun place b i h => ?_⟩
  · cases h; exact encode_decodeUop w
  · obtain ⟨_, hc, hevents⟩ := decodePkt_ok place b i h
    exact encode_of_innerEvents_eq_write i place b hc (hevents false)

/-! ### The words that are none -/

/-- The command bytes are the eight of R87. -/
theorem decodeLcdCmd_ok_iff (b : Byte) :
    (∃ i, decodeLcdCmd b = .ok i) ↔ b ∈ ([0x33, 0x32, 0x06, 0x0C, 0x28, 0x01, 0x80, 0xC0] : List Byte) := by
  constructor
  · rintro ⟨i, h⟩
    unfold decodeLcdCmd at h
    repeat' split at h
    all_goals cases h
    all_goals subst b; decide
  · intro h
    simp only [List.mem_cons, List.not_mem_nil, or_false] at h
    rcases h with rfl | rfl | rfl | rfl | rfl | rfl | rfl | rfl <;> exact ⟨_, rfl⟩

/-- Settles O5: bit 1 is looked at first, no `UOP` is rejected, and the command bytes are `decodeLcdCmd_ok_iff`. -/
theorem reservedWordsRejected : Obligations.ReservedWordsRejected :=
  ⟨fun _ _ h => if_pos h, fun _ => ⟨_, _, rfl⟩, decodeLcdCmd_ok_iff⟩

/-- Settles O3: ten words, each decoded. -/
theorem specWordsDecode : Obligations.SpecWordsDecode := by
  unfold Obligations.SpecWordsDecode
  decide

end Sys2Proof

/-!
How work ends, by cases. A run of events, a command word and a step each end in one of a few states, which the inductive propositions of this section
name; `runInner_next`, `operate_next`, `exec_next` and `step_next` say so, once. What every outcome keeps is then read off the cases.
-/

namespace Sys2Proof.Machine

/-! ### The cases -/

/-- A run of `ps` from `s` stopped in `t` short of its end: at an unanswered write, at a write answered Err or at a reset. -/
inductive Broken (ps : List Prim) (s : State) : State → Prop where
  | held (pre post : List Prim) (pl : Place) (b : Byte) (hps : ps = pre ++ .write pl b :: post) :
    Broken ps s { okSteps pre s with wr := some b, work := (Prim.write pl b :: post).map Item.prim ++ s.work }
  | failed (pre post : List Prim) (pl : Place) (b : Byte) (hps : ps = pre ++ .write pl b :: post) :
    Broken ps s ((okSteps pre s).failed b)
  | cut (pre post : List Prim) (p : Prim) (hps : ps = pre ++ p :: post) (hdue : (okSteps pre s).rst.head? = some 0) :
    Broken ps s (((okSteps pre s).asked p).hardwareReset true)

/-- How an instruction may end. -/
inductive ExecCase (i : Instr) (s : State) : State → Prop where
  /-- An internal operation ran to its end. -/
  | inner (hc : isCommand i = false) : ExecCase i s (okSteps (innerEvents s.cfg.backlight i) s)
  | innerBroken (hc : isCommand i = false) {t : State} (h : Broken (innerEvents s.cfg.backlight i) s t) : ExecCase i s t
  /-- A command word that the busy block does not take (log 16). -/
  | ignored (hc : isCommand i = true) (hbusy : s.busy = true) : ExecCase i s s
  | refused (hc : isCommand i = true) (hbusy : s.busy = false) (ha : acceptedIn i ≠ some s.phase) : ExecCase i s s.refuse
  | completed (hbusy : s.busy = false) (ha : acceptedIn i = some s.phase) :
    ExecCase i s (okSteps (begun i s).events (begun i s)).complete
  | broken (hbusy : s.busy = false) (ha : acceptedIn i = some s.phase) {t : State}
    (h : Broken (begun i s).events (begun i s) t) : ExecCase i s t

/-- How a step may end. -/
inductive StepCase (s : State) : State → Prop where
  | reset (hdue : s.rst.head? = some 0) : StepCase s (s.askedNext.hardwareReset s.inProgress)
  /-- The entry at the head of the queue ran to its end. -/
  | item (item : Item) (rest : List Item) (hwork : s.work = item :: rest) (hlegal : ∀ p, item = .prim p → primLegal p = true)
    (hopen : s.busy = false ∨ rest ≠ []) : StepCase s (okSteps (expand s.cfg.backlight item) { s with work := rest })
  /-- It was the last entry, and the operation in progress completed with it. -/
  | lastItem (item : Item) (hwork : s.work = [item]) (hlegal : ∀ p, item = .prim p → primLegal p = true) (hbusy : s.busy = true) :
    StepCase s (okSteps (expand s.cfg.backlight item) { s with work := [] }).complete
  | itemBroken (item : Item) (rest : List Item) (hwork : s.work = item :: rest)
    (hlegal : ∀ p, item = .prim p → primLegal p = true) {t : State}
    (h : Broken (expand s.cfg.backlight item) { s with work := rest } t) : StepCase s t
  | leftBusy (hwork : s.work = []) (hbusy : s.busy = true) : StepCase s s.complete
  | transfer (hwork : s.work = []) (hbusy : s.busy = false) (rx : Option Rx) (n : Nat)
    (hrx : ∀ r, rx = some r → r.got.length < textBeats r.word) : StepCase s (s.transfer rx n)
  | command (hwork : s.work = []) (hbusy : s.busy = false) (i : Instr) (n : Nat) (hc : isCommand i = true) {t : State}
    (h : ExecCase i (s.transfer none n) t) : StepCase s t

/-! ### Every outcome is one of them -/

theorem Broken.after_okStep {p : Prim} {ps : List Prim} {s t : State} (h : Broken ps (okStep s p) t) : Broken (p :: ps) s t := by
  cases h with
  | held pre post pl b hps =>
    rw [okStep_work]
    exact .held (p :: pre) post pl b (congrArg (p :: ·) hps)
  | failed pre post pl b hps => exact .failed (p :: pre) post pl b (congrArg (p :: ·) hps)
  | cut pre post q hps hdue => exact .cut (p :: pre) post q (congrArg (p :: ·) hps) hdue

/-- Events run to their end, or stop short of it. -/
theorem runPrims_next (ps : List Prim) (s : State) :
    runPrims ps s = .goOn (okSteps ps s) ∨ ∃ t, (runPrims ps s = .waiting t ∨ runPrims ps s = .ended t) ∧ Broken ps s t := by
  induction ps generalizing s with
  | nil => left; rfl
  | cons p ps ih =>
    rcases runPrim_cases p s with ⟨hdue, h⟩ | ⟨_, ⟨h, _⟩ | ⟨pl, b, rfl, _, h⟩ | ⟨pl, b, rfl, _, h⟩⟩
    · exact .inr ⟨_, .inr (by simp only [runPrims, h, okSteps_nil]), .cut [] ps p rfl hdue⟩
    · have hrun : runPrims (p :: ps) s = runPrims ps (okStep s p) := by simp only [runPrims, h]
      rw [hrun]
      exact (ih (okStep s p)).imp id fun ⟨t, ht, hbroken⟩ => ⟨t, ht, hbroken.after_okStep⟩
    · exact .inr ⟨_, .inl (by simp only [runPrims, h, okSteps_nil]), .held [] ps pl b rfl⟩
    · exact .inr ⟨_, .inr (by simp only [runPrims, h, okSteps_nil]), .failed [] ps pl b rfl⟩

theorem runInner_next (ps : List Prim) (s t : State) (h : runInner ps s = .next t) : t = okSteps ps s ∨ Broken ps s t := by
  rcases runPrims_next ps s with hr | ⟨u, hr | hr, hbroken⟩ <;> rw [runInner, hr] at h <;> cases h
  · exact .inl rfl
  · exact .inr hbroken
  · exact .inr hbroken

theorem operate_next (s t : State) (h : s.operate = .next t) : t = (okSteps s.events s).complete ∨ Broken s.events s t := by
  rcases runPrims_next s.events s with hr | ⟨u, hr | hr, hbroken⟩ <;> rw [State.operate, hr] at h <;> cases h
  · exact .inl rfl
  · exact .inr hbroken
  · exact .inr hbroken

theorem exec_next (i : Instr) (s t : State) (h : exec i s = .next t) : ExecCase i s t := by
  cases hc : isCommand i with
  | false =>
    rw [exec_inner i s hc] at h
    rcases runInner_next _ s t h with rfl | hbroken
    · exact .inner hc
    · exact .innerBroken hc hbroken
  | true =>
    cases hbusy : s.busy with
    | true => simp only [exec_command i s hc, hbusy, if_true] at h; cases h; exact .ignored hc hbusy
    | false =>
      by_cases ha : acceptedIn i = some s.phase
      · rw [exec_accepted i s ha hbusy] at h
        rcases operate_next _ t h with rfl | hbroken
        · exact .completed hbusy ha
        · exact .broken hbusy ha hbroken
      · rw [exec_refused i s hc hbusy ha] at h
        cases h
        exact .refused hc hbusy ha

/-- What stopped short has work left, or is idle: nothing completes with it. -/
theorem Broken.completed_eq {ps : List Prim} {s t : State} (h : Broken ps s t) : t.completed = t := by
  cases h with
  | held => exact State.completed_of_work_ne_nil _ (by simp)
  | failed => rfl
  | cut => rfl

theorem step_next (s t : State) (h : step s = .next t) : StepCase s t := by
  rcases step_cases s t h with ⟨hdue, rfl⟩ | ⟨_, hitem | ⟨hwork, hbusy, rfl⟩ | ⟨hwork, hbusy, rx, n, hrx, rfl⟩ | hcommand⟩
  · exact .reset hdue
  · obtain ⟨item, rest, u, hwork, hlegal, hrun, rfl⟩ := hitem
    rcases runInner_next _ _ u hrun with rfl | hbroken
    · rcases State.completed_cases (okSteps (expand s.cfg.backlight item) { s with work := rest }) with
        ⟨hbusy, hrest, hu⟩ | ⟨hopen, hu⟩ <;> rw [hu]
      · obtain rfl : rest = [] := by simpa using hrest
        exact .lastItem item hwork hlegal (by simpa using hbusy)
      · exact .item item rest hwork hlegal (by simpa using hopen)
    · rw [hbroken.completed_eq]; exact .itemBroken item rest hwork hlegal hbroken
  · exact .leftBusy hwork hbusy
  · exact .transfer hwork hbusy rx n hrx
  · obtain ⟨hwork, hbusy, w, text, n, _, hexec⟩ := hcommand
    exact .command hwork hbusy _ n (decodeCommand_isCommand w text) (exec_next _ _ t hexec)

/-! ### Without a reset -/

/-- A reset that is due is used up by being taken. -/
theorem hardwareReset_not_noReset {s u : State} (cut : Bool) (hlen : u.rst.length = s.rst.length) (hdue : u.rst.head? = some 0) :
    ¬ NoReset s (u.hardwareReset cut) := by
  intro hn
  have hlt := (hardwareReset_taken cut rfl hdue).taken
  exact absurd (hn.trans hlen.symm) hlt.ne

/-- With no reset inside, a run that stops short does so at one of its writes. -/
theorem Broken.of_noReset {ps : List Prim} {s t : State} (h : Broken ps s t) (hn : NoReset s t) :
    ∃ pre post pl b, ps = pre ++ .write pl b :: post ∧
      (t = { okSteps pre s with wr := some b, work := (Prim.write pl b :: post).map Item.prim ++ s.work } ∨
        t = (okSteps pre s).failed b) := by
  cases h with
  | held pre post pl b hps => exact ⟨pre, post, pl, b, hps, .inl rfl⟩
  | failed pre post pl b hps => exact ⟨pre, post, pl, b, hps, .inr rfl⟩
  | cut pre post p hps hdue =>
    exact absurd hn (hardwareReset_not_noReset true (by simp [okSteps_rst]) (by simpa using hdue))

/-! ### Answers -/

theorem settle_next (r : Run) : ∃ t, r.settle = .next t := by cases r <;> exact ⟨_, rfl⟩

theorem finish_exists_next (r : Run) : ∃ t, r.finish = .next t := by cases r <;> exact ⟨_, rfl⟩

/-- Settles O46: an internal operation settles, and a command word is left, refused or run to where it comes. -/
theorem everyInstructionAnswers : Obligations.EveryInstructionAnswers := by
  intro i s
  cases hc : isCommand i with
  | false => rw [exec_inner i s hc]; exact settle_next _
  | true =>
    rw [exec_command i s hc]
    split
    · exact ⟨_, rfl⟩
    · split
      · exact finish_exists_next _
      · exact ⟨_, rfl⟩

/-- Settles O20. -/
theorem busyCommandIgnored : Obligations.BusyCommandIgnored := by
  intro i s hc hbusy
  rw [exec_command i s hc, if_pos hbusy]

end Sys2Proof.Machine

/-!
What every outcome keeps. Whatever an instruction or a step does, it extends the records and writes to the one address (`Extends`); without a reset it
leaves command port, operands and configuration alone (`Framed`) and reports a status or holds it (`Reported`); and it brings the display in step only by a
completed CONSTRUCT (`SyncFound`). Each relation is shown of the shared operations first and then of the cases of `exec_next` and `step_next`.
-/

namespace Sys2Proof.Machine

/-! ### The expander at a reset -/

/-- A reset leaves the expander, or the write outstanding reaches it (R242). -/
theorem hardwareReset_bus_cases (cut : Bool) (s : State) :
    (s.hardwareReset cut).bus = s.bus ∨
      ∃ b, s.wr = some b ∧ (s.hardwareReset cut).bus = s.bus.write s.build.i2cAddr.toNat b := by
  unfold State.hardwareReset
  cases hwr : s.wr with
  | none => exact .inl rfl
  | some b =>
    cases hlands : Config.failedWriteLands s.draws with
    | false => exact .inl (by simp)
    | true => exact .inr ⟨b, rfl, by simp⟩

theorem failed_bus_cases (b : Byte) (s : State) :
    (s.failed b).bus = s.bus ∨ (s.failed b).bus = s.bus.write s.build.i2cAddr.toNat b := by
  rw [State.failed_bus]
  split
  · exact .inr rfl
  · exact .inl rfl

theorem hardwareReset_read_other (cut : Bool) (s : State) (a : Nat) (h : a ≠ s.build.i2cAddr.toNat) :
    (s.hardwareReset cut).bus.read a = s.bus.read a := by
  rcases hardwareReset_bus_cases cut s with hbus | ⟨b, _, hbus⟩ <;> rw [hbus]
  exact Memory.read_write_other _ h.symm b

theorem failed_read_other (b : Byte) (s : State) (a : Nat) (h : a ≠ s.build.i2cAddr.toNat) :
    (s.failed b).bus.read a = s.bus.read a := by
  rcases failed_bus_cases b s with hbus | hbus <;> rw [hbus]
  exact Memory.read_write_other _ h.symm b

/-! ### Records and addresses -/

/-- The build is as before, only the expander's address was written, and the records have grown. -/
structure Extends (s t : State) : Prop where
  build : t.build = s.build
  bus : ∀ a, a ≠ s.build.i2cAddr.toNat → t.bus.read a = s.bus.read a
  trace : s.trace <+: t.trace
  results : s.results <+: t.results

theorem Extends.of_eq {s t : State} (hbuild : t.build = s.build) (hbus : t.bus = s.bus) (htrace : t.trace = s.trace)
    (hresults : s.results <+: t.results) : Extends s t :=
  ⟨hbuild, fun _ _ => by rw [hbus], by rw [htrace], hresults⟩

theorem Extends.trans {s u t : State} (h : Extends s u) (g : Extends u t) : Extends s t :=
  ⟨g.build.trans h.build, fun a ha => (g.bus a (h.build ▸ ha)).trans (h.bus a ha), h.trace.trans g.trace,
    h.results.trans g.results⟩

theorem okSteps_extends (ps : List Prim) (s : State) : Extends s (okSteps ps s) :=
  ⟨okSteps_build ps s, okSteps_read_other ps s, by simp, by simp⟩

theorem hardwareReset_extends (cut : Bool) (s : State) : Extends s (s.hardwareReset cut) :=
  ⟨rfl, hardwareReset_read_other cut s, List.prefix_rfl, List.prefix_rfl⟩

/-- A status is reported behind those before it, if one is. -/
theorem complete_results_prefix (s : State) : s.results <+: s.complete.results := by
  unfold State.complete
  split <;> simp

theorem complete_extends (s : State) : Extends s s.complete :=
  .of_eq s.complete_build s.complete_bus s.complete_trace (complete_results_prefix s)

theorem Broken.to_extends {ps : List Prim} {s t : State} (h : Broken ps s t) : Extends s t := by
  cases h with
  | held pre post pl b => exact (okSteps_extends pre s).trans (.of_eq rfl rfl rfl List.prefix_rfl)
  | failed pre post pl b =>
    exact (okSteps_extends pre s).trans ⟨rfl, failed_read_other b _, by simp, by simp⟩
  | cut pre post p =>
    have hasked : Extends (okSteps pre s) ((okSteps pre s).asked p) := .of_eq (by simp) (by simp) (by simp) (by simp)
    exact ((okSteps_extends pre s).trans hasked).trans (hardwareReset_extends true _)

theorem ExecCase.to_extends {i : Instr} {s t : State} (h : ExecCase i s t) : Extends s t := by
  have hbegun : Extends s (begun i s) := .of_eq (by simp) (by simp) (by simp) (by simp)
  cases h with
  | inner => exact okSteps_extends _ s
  | innerBroken _ h => exact h.to_extends
  | ignored => exact .of_eq rfl rfl rfl List.prefix_rfl
  | refused => exact .of_eq rfl rfl rfl (by simp)
  | completed => exact (hbegun.trans (okSteps_extends _ _)).trans (complete_extends _)
  | broken _ _ h => exact hbegun.trans h.to_extends

theorem step_extends (s t : State) (h : step s = .next t) : Extends s t := by
  have hpop : ∀ rest, Extends s { s with work := rest } := fun _ => .of_eq rfl rfl rfl List.prefix_rfl
  cases step_next s t h with
  | reset => exact .trans (.of_eq (by simp) (by simp) (by simp) (by simp)) (hardwareReset_extends _ s.askedNext)
  | item item rest => exact (hpop rest).trans (okSteps_extends _ _)
  | lastItem item => exact ((hpop []).trans (okSteps_extends _ _)).trans (complete_extends _)
  | itemBroken item rest _ _ h => exact (hpop rest).trans h.to_extends
  | leftBusy => exact complete_extends s
  | transfer => exact .of_eq rfl rfl rfl List.prefix_rfl
  | command _ _ i n _ h => exact .trans (u := s.transfer none n) (.of_eq rfl rfl rfl List.prefix_rfl) h.to_extends

/-- Settles O43. -/
theorem buildNeverChanges : Obligations.BuildNeverChanges := fun s t h => (step_extends s t h).build

/-- Settles O44. -/
theorem onlyTheExpanderIsWritten : Obligations.OnlyTheExpanderIsWritten := fun s t a h => (step_extends s t h).bus a

/-! ### The status held or reported -/

/-- The status is held, or one is reported and is the one now held (R30). -/
def Reported (s t : State) : Prop := (t.status = s.status ∧ t.results = s.results) ∨ t.results = s.results ++ [t.status]

theorem Reported.held {s t : State} (hstatus : t.status = s.status) (hresults : t.results = s.results) : Reported s t :=
  .inl ⟨hstatus, hresults⟩

/-- What comes before the report does not count. -/
theorem Reported.after {s u t : State} (hstatus : u.status = s.status) (hresults : u.results = s.results) (h : Reported u t) :
    Reported s t := by
  unfold Reported at *
  rwa [hstatus, hresults] at h

theorem complete_reported (s : State) : Reported s s.complete := by
  by_cases hop : s.seq.op = .idle
  · exact .held (by simp [State.complete, hop]) (by simp [State.complete, hop])
  · obtain ⟨hstatus, hresults⟩ := complete_status s hop
    exact .inr (by rw [hstatus, hresults])

theorem okSteps_complete_reported (ps : List Prim) (s : State) : Reported s (okSteps ps s).complete :=
  .after (okSteps_status ps s) (okSteps_results ps s) (complete_reported _)

theorem Broken.reported {ps : List Prim} {s t : State} (h : Broken ps s t) (hn : NoReset s t) : Reported s t := by
  obtain ⟨pre, post, pl, b, _, rfl | rfl⟩ := h.of_noReset hn
  · exact .held (okSteps_status pre s) (okSteps_results pre s)
  · exact .inr (by simp)

theorem ExecCase.reported {i : Instr} {s t : State} (h : ExecCase i s t) (hn : NoReset s t) : Reported s t := by
  cases h with
  | inner => exact .held (by simp) (by simp)
  | innerBroken _ h => exact h.reported hn
  | ignored => exact .held rfl rfl
  | refused => exact .inr rfl
  | completed => exact .after (begun_status i s) (begun_results i s) (okSteps_complete_reported _ _)
  | broken _ _ h => exact .after (begun_status i s) (begun_results i s) (h.reported (hn.trans (by simp)))

theorem step_reported (s t : State) (h : step s = .next t) (hn : NoReset s t) : Reported s t := by
  cases step_next s t h with
  | reset hdue => exact absurd hn (hardwareReset_not_noReset _ (by simp) (by simpa using hdue))
  | item item rest => exact .held (by simp) (by simp)
  | lastItem item => exact okSteps_complete_reported _ { s with work := [] }
  | itemBroken item rest _ _ h => exact h.reported (s := { s with work := rest }) hn
  | leftBusy => exact complete_reported s
  | transfer => exact .held rfl rfl
  | command _ _ i n _ h => exact .after (u := s.transfer none n) rfl rfl (h.reported (hn.trans (by simp)))

/-- Settles O45: the records by `Extends`, the status by `Reported`. -/
theorem recordsOnlyGrow : Obligations.RecordsOnlyGrow := by
  intro s t h
  exact ⟨(step_extends s t h).trace, (step_extends s t h).results, step_reported s t h⟩

/-! ### Frames -/

/-- What no operation touches without a reset, once its operands are written. -/
structure Framed (s t : State) : Prop where
  rx : t.rx = s.rx
  cmd : t.cmd = s.cmd
  cfg : t.cfg = s.cfg
  latch : t.latch = s.latch

theorem okSteps_framed (ps : List Prim) (s : State) : Framed s (okSteps ps s) :=
  ⟨okSteps_rx ps s, okSteps_cmd ps s, okSteps_cfg ps s, okSteps_latch ps s⟩

theorem okSteps_complete_framed (ps : List Prim) (s : State) : Framed s (okSteps ps s).complete :=
  ⟨by simp, by simp, by simp, by simp⟩

theorem Broken.framed {ps : List Prim} {s t : State} (h : Broken ps s t) (hn : NoReset s t) : Framed s t ∧ t.phase = s.phase := by
  obtain ⟨pre, post, pl, b, _, rfl | rfl⟩ := h.of_noReset hn
  · exact ⟨⟨by simp, by simp, by simp, by simp⟩, by simp⟩
  · exact ⟨⟨by simp, by simp, by simp, by simp⟩, by simp⟩

/-- A run that stops short and reports nothing is held at a write. -/
theorem Broken.of_results_eq {ps : List Prim} {s t : State} (h : Broken ps s t) (hn : NoReset s t) (hresults : t.results = s.results) :
    t.busy = s.busy ∧ t.status = s.status ∧ t.seq.op = s.seq.op ∧ (t.sync = s.sync ∨ t.sync = .lost) := by
  obtain ⟨pre, post, pl, b, _, rfl | rfl⟩ := h.of_noReset hn
  · exact ⟨by simp, by simp, by simp, (okSteps_sync pre s).imp id And.right⟩
  · simp at hresults

/-- Settles O47: the events of an internal operation, run to their end or stopped short. -/
theorem internalFrame : Obligations.InternalFrame := by
  intro i s t hc h hn
  have hcase := exec_next i s t h
  obtain ⟨hframed, hphase, hheld⟩ : Framed s t ∧ t.phase = s.phase ∧ (t.results = s.results →
      t.busy = s.busy ∧ t.status = s.status ∧ t.seq.op = s.seq.op ∧ (t.sync = s.sync ∨ t.sync = .lost)) := by
    cases hcase with
    | inner =>
      exact ⟨okSteps_framed _ s, okSteps_phase _ s, fun _ => ⟨by simp, by simp, by simp, (okSteps_sync _ s).imp id And.right⟩⟩
    | innerBroken _ hbroken => exact ⟨(hbroken.framed hn).1, (hbroken.framed hn).2, hbroken.of_results_eq hn⟩
    | ignored hc' | refused hc' => rw [hc] at hc'; cases hc'
    | completed _ ha | broken _ ha => rw [acceptedIn_isCommand i _ ha] at hc; cases hc
  exact ⟨hphase, hframed.cfg, hframed.latch, hframed.rx, hframed.cmd, hcase.to_extends.build, hcase.to_extends.bus, hheld⟩

/-- Only CONSTRUCT writes the configuration, and only PRINT the operand latch. -/
theorem begun_cfg_of_ne (i : Instr) (s : State) (h : ∀ w h b, i ≠ .construct w h b) : (begun i s).cfg = s.cfg := by
  cases i with
  | construct w h' b => exact absurd rfl (h w h' b)
  | _ => rfl

theorem begun_latch_of_ne (i : Instr) (s : State) (h : ∀ text line, i ≠ .print text line) : (begun i s).latch = s.latch := by
  cases i with
  | print text line => exact absurd rfl (h text line)
  | _ => rfl

theorem opOf_ne_construct (i : Instr) (h : ∀ w h b, i ≠ .construct w h b) : opOf i ≠ .construct := by
  intro hop
  obtain ⟨w, h', b, hi⟩ := opOf_eq_construct i hop
  exact h w h' b hi

/-- Settles O48: a word that is not accepted changes at most status and results, and an accepted one is framed from where it began. -/
theorem commandFrame : Obligations.CommandFrame := by
  intro i s t hc h hn
  have hcase := exec_next i s t h
  have hbuild := hcase.to_extends.build
  have hbus := hcase.to_extends.bus
  have hreported := hcase.reported hn
  have accepted (ha : acceptedIn i = some s.phase) (hframed : Framed (begun i s) t)
      (hphase : opOf i ≠ .construct → t.phase = s.phase) :
      t.rx = s.rx ∧ t.cmd = s.cmd ∧ ((∀ w h b, i ≠ .construct w h b) → t.cfg = s.cfg ∧ t.phase = s.phase) ∧
        ((∀ text line, i ≠ .print text line) → t.latch = s.latch) ∧ acceptedIn i ≠ none :=
    ⟨hframed.rx.trans (begun_rx i s), hframed.cmd.trans (begun_cmd i s),
      fun hi => ⟨hframed.cfg.trans (begun_cfg_of_ne i s hi), hphase (opOf_ne_construct i hi)⟩,
      fun hi => hframed.latch.trans (begun_latch_of_ne i s hi), by simp [ha]⟩
  cases hcase with
  | inner hc' | innerBroken hc' => rw [hc] at hc'; cases hc'
  | ignored => exact ⟨rfl, rfl, rfl, hbus, fun _ => ⟨rfl, rfl⟩, fun _ => rfl, hreported, fun _ => ⟨rfl, rfl, rfl, rfl, rfl, rfl, rfl⟩⟩
  | refused => exact ⟨rfl, rfl, rfl, hbus, fun _ => ⟨rfl, rfl⟩, fun _ => rfl, hreported, fun _ => ⟨rfl, rfl, rfl, rfl, rfl, rfl, rfl⟩⟩
  | completed _ ha =>
    obtain ⟨hrx, hcmd, hcfg, hlatch, hsome⟩ := accepted ha (okSteps_complete_framed _ _)
      fun hop => by simp [complete_phase, begun_op i s _ ha, hop]
    exact ⟨hrx, hcmd, hbuild, hbus, hcfg, hlatch, hreported, fun hnone => absurd hnone hsome⟩
  | broken _ ha hbroken =>
    obtain ⟨hframed, hphase⟩ := hbroken.framed (hn.trans (by simp))
    obtain ⟨hrx, hcmd, hcfg, hlatch, hsome⟩ := accepted ha hframed fun _ => by simpa using hphase
    exact ⟨hrx, hcmd, hbuild, hbus, hcfg, hlatch, hreported, fun hnone => absurd hnone hsome⟩

/-! ### The command port while busy -/

theorem Broken.cmd_eq {ps : List Prim} {s t : State} (h : Broken ps s t) : t.cmd = s.cmd := by
  cases h <;> simp

/-- Settles O11: the two cases in which a step takes transfers are those of the idle block. -/
theorem busyPortTakesNothing : Obligations.BusyPortTakesNothing := by
  intro s t hbusy h
  cases step_next s t h with
  | reset => simp
  | item => simp
  | lastItem => simp
  | itemBroken item rest _ _ h => exact h.cmd_eq
  | leftBusy => simp
  | transfer _ hidle => rw [hbusy] at hidle; cases hidle
  | command _ hidle => rw [hbusy] at hidle; cases hidle

/-! ### What is known of the display -/

/-- Where the display is in step it was so before, or a CONSTRUCT after a reset completed (U2). -/
def SyncFound (s t : State) : Prop :=
  t.sync = .inStep → s.sync = .inStep ∨
    (s.sync = .awaiting ∧ t.phase = .ready ∧ t.status = 0b000 ∧ t.results = s.results ++ [0b000])

theorem SyncFound.of_ne {s t : State} (h : t.sync ≠ .inStep) : SyncFound s t := fun ht => absurd ht h

/-- Events find nothing out about the display: a beginning that keeps what is known, or loses it, does not count. -/
theorem SyncFound.after {s u t : State} (hsync : u.sync = s.sync ∨ (s.sync = .inStep ∧ u.sync = .lost))
    (hresults : u.results = s.results) (h : SyncFound u t) : SyncFound s t := by
  intro ht
  rcases hsync with hsync | ⟨hs, _⟩
  · rw [← hsync, ← hresults]; exact h ht
  · exact .inl hs

theorem okSteps_syncFound (ps : List Prim) (s : State) : SyncFound s (okSteps ps s) :=
  .after (okSteps_sync ps s) (okSteps_results ps s) .inl

/-- Only the completion of a CONSTRUCT resynchronises. -/
theorem complete_sync (s : State) : s.complete.sync = if s.seq.op = .construct then s.resync.sync else s.sync := by
  unfold State.complete
  split <;> simp_all

theorem resync_sync (s : State) : s.resync.sync = if s.sync = .awaiting then .inStep else s.sync := by
  unfold State.resync
  split <;> simp_all

theorem complete_syncFound (s : State) : SyncFound s s.complete := by
  intro ht
  by_cases hop : s.seq.op = .construct
  · rw [complete_sync, if_pos hop, resync_sync] at ht
    by_cases hawaiting : s.sync = .awaiting
    · obtain ⟨hstatus, hresults⟩ := complete_status s (by simp [hop])
      have hdone : statusDone s.seq.op s.latch.line = 0b000 := by simp only [hop, statusDone, softError]; rfl
      exact .inr ⟨hawaiting, by simp [complete_phase, hop], hstatus.trans hdone, hdone ▸ hresults⟩
    · exact .inl (by simpa [hawaiting] using ht)
  · exact .inl (by simpa [complete_sync, hop] using ht)

theorem okSteps_complete_syncFound (ps : List Prim) (s : State) : SyncFound s (okSteps ps s).complete :=
  .after (okSteps_sync ps s) (okSteps_results ps s) (complete_syncFound _)

theorem Broken.syncFound {ps : List Prim} {s t : State} (h : Broken ps s t) : SyncFound s t := by
  cases h with
  | held pre post pl b => exact okSteps_syncFound pre s
  | failed => exact .of_ne nofun
  | cut => exact .of_ne nofun

theorem ExecCase.syncFound {i : Instr} {s t : State} (h : ExecCase i s t) : SyncFound s t := by
  cases h with
  | inner => exact okSteps_syncFound _ s
  | innerBroken _ h => exact h.syncFound
  | ignored => exact .inl
  | refused => exact .inl
  | completed => exact .after (.inl (begun_sync i s)) (begun_results i s) (okSteps_complete_syncFound _ _)
  | broken _ _ h => exact .after (.inl (begun_sync i s)) (begun_results i s) h.syncFound

theorem step_syncFound (s t : State) (h : step s = .next t) : SyncFound s t := by
  cases step_next s t h with
  | reset =>
    intro ht
    rw [State.hardwareReset_sync, State.askedNext_sync] at ht
    split at ht
    · cases ht
    · split at ht
      · cases ht
      · exact .inl ht
  | item item rest => exact okSteps_syncFound _ { s with work := rest }
  | lastItem item => exact okSteps_complete_syncFound _ { s with work := [] }
  | itemBroken item rest _ _ h => exact h.syncFound (s := { s with work := rest })
  | leftBusy => exact complete_syncFound s
  | transfer => exact .inl
  | command _ _ i n _ h => exact .after (u := s.transfer none n) (.inl rfl) rfl h.syncFound

/-- Settles O40. -/
theorem displayKnownOnlyAfterConstruct : Obligations.DisplayKnownOnlyAfterConstruct :=
  fun s t h hs ht => (step_syncFound s t h ht).resolve_left hs

end Sys2Proof.Machine

/-!
The invariant. It is kept in two parts: what holds of the registers and the records between any two events (`State.RegsInv`), which every shared
operation keeps, and what holds of the queue and the request port where a step ends (`State.QueueInv`), which is shown of the cases of `step_next`: a run
held at a write puts its own rest at the head of the queue, and every other case leaves the port free.
-/

namespace Sys2Proof.Machine

/-- The part of the invariant on the registers and the records. -/
structure State.RegsInv (s : State) : Prop where
  bus : s.bus.wf = true
  build : s.build.Legal
  busy : s.busy = true ↔ s.seq.op ≠ .idle
  construct : s.seq.op = .construct → s.phase = .uninitialized
  print : s.seq.op = .print → s.phase = .ready
  clear : s.seq.op = .clear → s.phase = .ready
  tmr : s.tmr = 0
  status : statusLegal s.status = true
  results : s.results.all statusLegal = true
  trace : s.trace.all eventLegal = true

/-- What the entries of a queue keep to under a backlight. -/
structure QueueLegal (bl : Bool) (work : List Item) : Prop where
  legal : ∀ item ∈ work, itemLegal item = true
  carries : ∀ p, Item.prim p ∈ work → PrimCarries bl p

/-- The part of the invariant on the queue and the request port. -/
structure State.QueueInv (s : State) : Prop where
  goesOn : s.busy = true → s.work ≠ []
  queue : QueueLegal s.cfg.backlight s.work
  request : ∀ b, s.wr = some b → ∃ place rest, s.work = .prim (.write place b) :: rest

theorem State.Inv.regs {s : State} (h : s.Inv) : s.RegsInv :=
  ⟨h.bus, h.build, h.busy, h.construct, h.print, h.clear, h.tmr, h.status, h.results, h.trace⟩

theorem State.Inv.queueInv {s : State} (h : s.Inv) : s.QueueInv where
  goesOn := h.goesOn
  queue := by
    refine ⟨List.all_eq_true.mp h.queue, fun p hp place b hw => h.backlight place b ?_⟩
    rw [← hw]
    exact hp
  request := h.request

theorem State.Inv.of_parts {s : State} (hregs : s.RegsInv) (hqueue : s.QueueInv)
    (hreceived : ∀ r, s.rx = some r → r.got.length < textBeats r.word) : s.Inv where
  bus := hregs.bus
  build := hregs.build
  busy := hregs.busy
  goesOn := hqueue.goesOn
  construct := hregs.construct
  print := hregs.print
  clear := hregs.clear
  tmr := hregs.tmr
  status := hregs.status
  results := hregs.results
  trace := hregs.trace
  queue := List.all_eq_true.mpr hqueue.queue.legal
  request := hqueue.request
  backlight place b hb := hqueue.queue.carries _ hb place b rfl
  received := hreceived

/-! ### Events that belong to their places -/

theorem primLegal_okEvent {p : Prim} (build : Build) (h : primLegal p = true) : eventLegal (okEvent build p) = true := by
  cases p with
  | wait w => cases w <;> rfl
  | report => rfl
  | write place b =>
    cases place <;> simp only [primLegal, Bool.and_eq_true] at h <;> exact h.1

theorem primLegal_write_packet {place : Place} {b : Byte} (h : primLegal (.write place b) = true) : packetLegal b = true :=
  primLegal_okEvent (p := .write place b) Config.defaultBuild h

/-- The packet of a nibble has R/W and Enable clear (R83, R84). -/
theorem highPacket_present (bl : Bool) (m : Mode) (v : Byte) : primLegal (.write .present (highPacket bl m v)) = true := by
  revert v; cases bl <;> cases m <;> decide

theorem lowPacket_present (bl : Bool) (m : Mode) (v : Byte) : primLegal (.write .present (lowPacket bl m v)) = true := by
  revert v; cases bl <;> cases m <;> decide

/-- The other two writes of a nibble differ from its packet in Enable alone (R85). -/
theorem enableSet_legal {p : Byte} (h : primLegal (.write .present p) = true) : primLegal (.write .eset (enableSet p)) = true := by
  revert p; decide

theorem enableClear_legal {p : Byte} (h : primLegal (.write .present p) = true) : primLegal (.write .eclr (enableClear p)) = true := by
  revert p; decide

theorem nibble_legal {p : Byte} (h : primLegal (.write .present p) = true) : ∀ q ∈ nibble p, primLegal q = true := by
  simp only [nibble, pulse, List.forall_mem_cons]
  exact ⟨h, rfl, enableSet_legal h, rfl, enableClear_legal h, rfl, List.forall_mem_nil _⟩

theorem sendByte_legal (bl : Bool) (m : Mode) (v : Byte) : ∀ p ∈ sendByte bl m v, primLegal p = true :=
  List.forall_mem_append.mpr ⟨nibble_legal (highPacket_present bl m v), nibble_legal (lowPacket_present bl m v)⟩

theorem expand_legal (bl : Bool) (item : Item) (h : ∀ p, item = .prim p → primLegal p = true) :
    ∀ p ∈ expand bl item, primLegal p = true := by
  cases item with
  | prim p => exact List.forall_mem_singleton.mpr (h p rfl)
  | uop w => exact sendByte_legal bl _ _
  | lcdcmd b => exact sendByte_legal bl .command b

/-- The single events of an operation are its power-up wait and its report (R110, R172). -/
theorem program_prim (op : Op) (latch : Latch) (p : Prim) (h : Item.prim p ∈ program op latch) : p = .wait .powerUp ∨ p = .report := by
  cases op with
  | idle => cases h
  | construct => exact .inl (by simpa [program] using h)
  | print =>
    cases hline : Config.lineByte latch.line with
    | none => exact .inr (by simpa [program, addressStep, hline] using h)
    | some b => simp [program, addressStep, hline] at h
  | clear => simp [program] at h

theorem events_legal (s : State) : ∀ p ∈ s.events, primLegal p = true := by
  intro p hp
  obtain ⟨item, hitem, hp⟩ := List.mem_flatMap.mp hp
  refine expand_legal _ item (fun q hq => ?_) p hp
  subst hq
  rcases program_prim _ _ q hitem with rfl | rfl <;> rfl

/-! ### The registers -/

theorem statusDone_legal (op : Op) (line : BitVec 8) : statusLegal (statusDone op line) = true := by
  unfold statusDone
  cases softError op line <;> rfl

theorem statusBusError_legal (op : Op) (line : BitVec 8) : statusLegal (statusBusError op line) = true := by
  unfold statusBusError
  cases softError op line <;> rfl

theorem okSteps_regsInv {ps : List Prim} {s : State} (hps : ∀ p ∈ ps, primLegal p = true) (h : s.RegsInv) : (okSteps ps s).RegsInv where
  bus := okSteps_bus_wf ps s h.bus
  build := by simpa using h.build
  busy := by simpa using h.busy
  construct := by simpa using h.construct
  print := by simpa using h.print
  clear := by simpa using h.clear
  tmr := okSteps_tmr ps s h.tmr
  status := by simpa using h.status
  results := by simpa using h.results
  trace := by
    rw [okSteps_trace, List.all_append, h.trace, Bool.true_and, List.all_map, List.all_eq_true]
    exact fun p hp => primLegal_okEvent s.build (hps p hp)

/-- The registers of a block that has become idle. -/
theorem State.RegsInv.of_idle {s : State} (hbus : s.bus.wf = true) (hbuild : s.build.Legal) (hbusy : s.busy = false) (hop : s.seq.op = .idle)
    (htmr : s.tmr = 0) (hstatus : statusLegal s.status = true) (hresults : s.results.all statusLegal = true)
    (htrace : s.trace.all eventLegal = true) : s.RegsInv :=
  ⟨hbus, hbuild, by simp [hbusy, hop], by simp [hop], by simp [hop], by simp [hop], htmr, hstatus, hresults, htrace⟩

theorem failed_regsInv {s : State} {b : Byte} (hb : packetLegal b = true) (h : s.RegsInv) : (s.failed b).RegsInv := by
  have hstatus := statusBusError_legal s.seq.op s.latch.line
  refine .of_idle ?bus h.build rfl rfl h.tmr hstatus ?results ?trace
  case bus => rcases failed_bus_cases b s with hbus | hbus <;> rw [hbus]; exacts [h.bus, Memory.wf_write _ _ b h.bus]
  case results => rw [State.failed_results, List.all_append, h.results]; simp [hstatus]
  case trace => rw [State.failed_trace, List.all_append, h.trace]; simp [eventLegal, hb]

/-- A reset gives every register its reset value; `hwf`, `hbuild` and the records are what it keeps (R240). -/
theorem hardwareReset_regsInv {s : State} (cut : Bool) (hwf : s.bus.wf = true) (hbuild : s.build.Legal)
    (hresults : s.results.all statusLegal = true) (htrace : s.trace.all eventLegal = true) : (s.hardwareReset cut).RegsInv := by
  refine .of_idle ?bus hbuild rfl rfl rfl rfl hresults htrace
  case bus => rcases hardwareReset_bus_cases cut s with hbus | ⟨b, _, hbus⟩ <;> rw [hbus]; exacts [hwf, Memory.wf_write _ _ b hwf]

theorem complete_regsInv {s : State} (h : s.RegsInv) : s.complete.RegsInv := by
  have hlegal := statusDone_legal s.seq.op s.latch.line
  obtain ⟨hstatus, hresults⟩ : statusLegal s.complete.status = true ∧ s.complete.results.all statusLegal = true := by
    by_cases hop : s.seq.op = .idle
    · exact ⟨by simpa [State.complete, hop] using h.status, by simpa [State.complete, hop] using h.results⟩
    · obtain ⟨hstatus, hresults⟩ := complete_status s hop
      rw [hstatus, hresults, List.all_append, h.results]
      simp [hlegal]
  exact .of_idle (by simpa using h.bus) (by simpa using h.build) s.complete_busy (by rw [s.complete_seq]; rfl) (by simpa using h.tmr)
    hstatus hresults (by simpa using h.trace)

theorem refuse_regsInv {s : State} (h : s.RegsInv) : s.refuse.RegsInv :=
  { h with
    status := rfl
    results := by rw [State.refuse_results, List.all_append, h.results]; rfl }

/-- The phase that accepts an operation is the one it may be in progress in. -/
theorem begun_regsInv {i : Instr} {s : State} (ha : acceptedIn i = some s.phase) (h : s.RegsInv) : (begun i s).RegsInv := by
  have hop := begun_op i s _ ha
  have hphase : (begun i s).phase = s.phase := begun_phase i s
  refine ⟨by simpa using h.bus, by simpa using h.build, ?busy, ?construct, ?print, ?clear, by simpa using h.tmr, by simpa using h.status,
    by simpa using h.results, by simpa using h.trace⟩
  case busy => simp [begun_busy i s _ ha, hop, opOf_ne_idle i _ ha]
  all_goals
    rw [hop, hphase]
    intro hi
    cases i <;> cases hi
    exact (Option.some.inj ha).symm

theorem Broken.regsInv {ps : List Prim} {s t : State} (hps : ∀ p ∈ ps, primLegal p = true) (h : s.RegsInv) (hb : Broken ps s t) : t.RegsInv := by
  cases hb with
  | held pre post pl b hps' =>
    subst hps'
    have hpre := okSteps_regsInv (fun p hp => hps p (List.mem_append_left _ hp)) h
    exact { hpre with }
  | failed pre post pl b hps' =>
    subst hps'
    exact failed_regsInv (primLegal_write_packet (hps (.write pl b) (by simp))) (okSteps_regsInv (fun p hp => hps p (List.mem_append_left _ hp)) h)
  | cut pre post p hps' =>
    subst hps'
    have hpre := okSteps_regsInv (fun p hp => hps p (List.mem_append_left _ hp)) h
    exact hardwareReset_regsInv true (by simpa using hpre.bus) (by simpa using h.build) (by simpa using h.results) (by simpa using hpre.trace)

/-! ### The queue and the request port -/

theorem QueueLegal.nil (bl : Bool) : QueueLegal bl [] := ⟨nofun, nofun⟩

theorem QueueLegal.append {bl : Bool} {work work' : List Item} (h : QueueLegal bl work) (h' : QueueLegal bl work') :
    QueueLegal bl (work ++ work') :=
  ⟨List.forall_mem_append.mpr ⟨h.legal, h'.legal⟩, fun p hp => (List.mem_append.mp hp).elim (h.carries p) (h'.carries p)⟩

theorem QueueLegal.of_prims {bl : Bool} {ps : List Prim} (hlegal : ∀ p ∈ ps, primLegal p = true) (hcarry : ∀ p ∈ ps, PrimCarries bl p) :
    QueueLegal bl (ps.map Item.prim) := by
  refine ⟨List.forall_mem_map.mpr hlegal, fun p hp => hcarry p ?_⟩
  simpa using hp

/-- An idle block with nothing queued and nothing requested. -/
theorem State.QueueInv.of_idle {s : State} (hbusy : s.busy = false) (hwork : s.work = []) (hwr : s.wr = none) : s.QueueInv :=
  ⟨by simp [hbusy], by rw [hwork]; exact .nil _, by simp [hwr]⟩

/-- A run held up puts the write it stopped at, and what was to follow, before what was queued. -/
theorem Broken.queueInv {ps : List Prim} {s t : State} (hlegal : ∀ p ∈ ps, primLegal p = true)
    (hcarry : ∀ p ∈ ps, PrimCarries s.cfg.backlight p) (hqueue : QueueLegal s.cfg.backlight s.work) (h : Broken ps s t) : t.QueueInv := by
  cases h with
  | held pre post pl b hps =>
    subst hps
    have hrest : QueueLegal s.cfg.backlight ((Prim.write pl b :: post).map Item.prim) :=
      .of_prims (fun p hp => hlegal p (List.mem_append_right _ hp)) fun p hp => hcarry p (List.mem_append_right _ hp)
    refine ⟨by simp, by simpa using hrest.append hqueue, ?_⟩
    rintro _ ⟨⟩
    exact ⟨pl, _, rfl⟩
  | failed => exact .of_idle rfl rfl rfl
  | cut => exact .of_idle rfl rfl rfl

theorem Broken.rx_eq {ps : List Prim} {s t : State} (h : Broken ps s t) : t.rx = s.rx ∨ t.rx = none := by
  cases h with
  | held => exact .inl (by simp)
  | failed => exact .inl (by simp)
  | cut => exact .inr rfl

/-- The request outstanding is the write next in the queue, which takes it down. -/
theorem State.QueueInv.wr_after_item {s : State} {item : Item} {rest : List Item} (h : s.QueueInv) (hwork : s.work = item :: rest) :
    (okSteps (expand s.cfg.backlight item) { s with work := rest }).wr = none := by
  rw [okSteps_wr]
  cases hwr : s.wr with
  | none => simp
  | some b =>
    obtain ⟨place, rest', hhead⟩ := h.request b hwr
    obtain ⟨rfl, rfl⟩ : item = .prim (.write place b) ∧ rest = rest' := List.cons.inj (hwork.symm.trans hhead)
    rfl

theorem State.QueueInv.wr_of_nil {s : State} (h : s.QueueInv) (hwork : s.work = []) : s.wr = none := by
  cases hwr : s.wr with
  | none => rfl
  | some b =>
    obtain ⟨place, rest, hhead⟩ := h.request b hwr
    rw [hwork] at hhead
    cases hhead

theorem QueueLegal.tail {bl : Bool} {item : Item} {rest : List Item} (h : QueueLegal bl (item :: rest)) : QueueLegal bl rest :=
  ⟨fun x hx => h.legal x (List.mem_cons_of_mem _ hx), fun p hp => h.carries p (List.mem_cons_of_mem _ hp)⟩

/-- The events of the entry at the head of a legal queue carry the backlight. -/
theorem QueueLegal.expand_head {bl : Bool} {item : Item} {rest : List Item} (h : QueueLegal bl (item :: rest)) :
    ∀ p ∈ expand bl item, PrimCarries bl p :=
  expand_carries bl item fun p hp => h.carries p (hp ▸ List.mem_cons_self)

/-! ### The step -/

/-- The parts of the invariant where a command word at the idle block ends. -/
theorem ExecCase.inv {i : Instr} {s t : State} (hc : isCommand i = true) (hregs : s.RegsInv) (hwork : s.work = []) (hwr : s.wr = none)
    (hbusy : s.busy = false) (hrx : s.rx = none) (h : ExecCase i s t) : t.Inv := by
  have idle (hbusy' : t.busy = false) (hwork' : t.work = []) (hwr' : t.wr = none) (hrx' : t.rx = none) (hregs' : t.RegsInv) : t.Inv :=
    .of_parts hregs' (.of_idle hbusy' hwork' hwr') (by simp [hrx'])
  cases h with
  | inner hc' | innerBroken hc' => rw [hc] at hc'; cases hc'
  | ignored => exact idle hbusy hwork hwr hrx hregs
  | refused => exact idle hbusy hwork hwr hrx (refuse_regsInv hregs)
  | completed _ ha =>
    exact idle (State.complete_busy _) (by simpa using hwork) (by simp [okSteps_wr, hwr]) (by simpa using hrx)
      (complete_regsInv (okSteps_regsInv (events_legal _) (begun_regsInv ha hregs)))
  | broken _ ha hbroken =>
    have hnil : QueueLegal (begun i s).cfg.backlight (begun i s).work := by rw [begun_work, hwork]; exact .nil _
    have hnone : t.rx = none := hbroken.rx_eq.elim (fun hrx' => by simpa [hrx] using hrx') id
    exact .of_parts (hbroken.regsInv (events_legal _) (begun_regsInv ha hregs)) (hbroken.queueInv (events_legal _) (events_carry _) hnil)
      (by simp [hnone])

/-- Settles O51: the cases of a step, each in the two parts. -/
theorem stepKeepsInvariant : Obligations.StepKeepsInvariant := by
  intro s t h hstep
  have hregs := h.regs
  have hqueue := h.queueInv
  have hpopped : ∀ rest, ({ s with work := rest } : State).RegsInv := fun _ => { hregs with }
  cases step_next s t hstep with
  | reset =>
    exact .of_parts (hardwareReset_regsInv _ (by simpa using h.bus) (by simpa using h.build) (by simpa using h.results) (by simpa using h.trace))
      (.of_idle rfl rfl rfl) nofun
  | item item rest hwork hlegal hopen =>
    have hrest : QueueLegal s.cfg.backlight rest := (hwork ▸ hqueue.queue).tail
    refine .of_parts (okSteps_regsInv (expand_legal _ item hlegal) (hpopped rest)) ⟨?_, by simpa using hrest, ?_⟩ (by simpa using h.received)
    · simpa [or_iff_not_imp_left] using hopen
    · simp [hqueue.wr_after_item hwork]
  | lastItem item hwork hlegal =>
    exact .of_parts (complete_regsInv (okSteps_regsInv (expand_legal _ item hlegal) (hpopped [])))
      (.of_idle (State.complete_busy _) (by simp) (by simpa using hqueue.wr_after_item hwork)) (by simpa using h.received)
  | itemBroken item rest hwork hlegal hbroken =>
    have hqueue' : QueueLegal s.cfg.backlight (item :: rest) := hwork ▸ hqueue.queue
    refine .of_parts (hbroken.regsInv (expand_legal _ item hlegal) (hpopped rest))
      (hbroken.queueInv (s := { s with work := rest }) (expand_legal _ item hlegal) hqueue'.expand_head hqueue'.tail) ?_
    rcases hbroken.rx_eq with hrx | hrx <;> rw [hrx]
    · exact h.received
    · simp
  | leftBusy hwork hbusy => exact absurd hwork (h.goesOn hbusy)
  | transfer hwork hbusy rx n hrx =>
    exact .of_parts { hregs with } (.of_idle hbusy hwork (hqueue.wr_of_nil hwork)) hrx
  | command hwork hbusy i n hc hexec =>
    exact hexec.inv (s := s.transfer none n) hc { hregs with } hwork (hqueue.wr_of_nil hwork) hbusy rfl

/-- Settles O50: the block is idle, with nothing queued, requested, received or recorded. -/
theorem resetMeetsInvariant : Obligations.ResetMeetsInvariant :=
  .of_parts (.of_idle rfl (by decide) rfl rfl rfl rfl rfl rfl) (.of_idle rfl rfl rfl) nofun

/-- Settles O49. -/
theorem resetValues : Obligations.ResetValues := ⟨rfl, rfl, rfl, rfl, rfl, rfl, rfl, rfl, rfl, rfl, rfl⟩

/-! ### Progress -/

/-- A legal entry of the queue is a word of its port's format. -/
theorem runItem_answers (item : Item) (s : State) (h : itemLegal item = true) : ∃ t, runItem item s = .next t := by
  cases item with
  | prim p =>
    cases p with
    | wait w => exact settle_next _
    | report => exact settle_next _
    | write place b => rw [runItem_write place b s h]; exact settle_next _
  | uop w => exact everyInstructionAnswers (decodeUop w) s
  | lcdcmd b =>
    obtain ⟨i, hi⟩ := (decodeLcdCmd_ok_iff b).mpr (of_decide_eq_true h)
    simp only [runItem, fetch, decode, hi]
    exact everyInstructionAnswers i s

/-- A request is whole when it leaves the port, so that it decodes. -/
theorem portCycle_answers (s : State) (hrx : ∀ r, s.rx = some r → r.got.length < textBeats r.word) : ∃ t, portCycle s = .next t := by
  unfold portCycle
  split
  · next word text n hreceive =>
    have hlen : text.length = textBeats word := receive_request _ _ word text n (fun r hr => (hrx r hr).le) hreceive
    simp only [fetch, decode_cw hlen]
    exact everyInstructionAnswers _ _
  · exact ⟨_, rfl⟩

/-- Settles O54: every case of a step answers, the two that decode a word by the invariant on it. -/
theorem stepAnswers : Obligations.StepAnswers := by
  intro s h
  unfold step cycle
  split
  · exact ⟨_, rfl⟩
  · split
    · next item rest hwork =>
      obtain ⟨t, ht⟩ := runItem_answers item { s with work := rest } (h.queueInv.queue.legal item (by simp [hwork]))
      exact ⟨_, congrArg endOfWork ht⟩
    · split
      · exact ⟨_, rfl⟩
      · exact portCycle_answers s h.received

end Sys2Proof.Machine

/-!
The step at the queue and at the command port (70_reset_and_hazards.md R260, R261). What the port takes is `takeBeats_whole` or `takeBeats_missing`,
whether the word stands on the port or was taken before; a reset that is due comes before either, and `stepTakesReset` says what it leaves.
-/

namespace Sys2Proof.Machine

/-! ### The queue -/

/-- Settles O7: the entry at the head is run, and `endOfWork` completes what has nothing more to do. -/
theorem stepRunsQueuedWord : Obligations.StepRunsQueuedWord := by
  have run (s : State) (item : Item) (rest : List Item) (pw : PortWord) (i : Instr) (hreset : s.rst.head? ≠ some 0)
      (hwork : s.work = item :: rest) (hitem : ∀ u, runItem item u = fetch pw u) (hdecode : decode pw = .ok i) :
      step s = endOfWork (exec i { s with work := rest }) := by
    rw [step_queue s item rest hreset hwork, hitem, fetch, hdecode]
  refine ⟨fun s rest i hreset => ⟨fun w hwork => ?_, fun b hwork => ?_, fun place b hwork => ?_⟩, fun u => ?_⟩
  · exact run s _ rest (.uop w) i hreset hwork fun _ => rfl
  · exact run s _ rest (.lcdcmd b) i hreset hwork fun _ => rfl
  · exact run s _ rest (.pkt place b) i hreset hwork fun _ => rfl
  · simp [endOfWork, State.completed]

/-! ### The command port -/

@[simp] theorem rstAfter_zero (rst : List Nat) : rstAfter 0 rst = rst := by cases rst <;> rfl

/-- With no reset before the last transfer, everything is offered. -/
theorem offered_eq_cmd (s : State) (h : s.Quiet s.cmd.length) : s.offered = s.cmd := by
  unfold State.offered
  split
  · rfl
  · next k ks hrst => exact List.take_of_length_le (h k (by simp [hrst]))

/-- The beats that were missing make the request whole, and those behind them are left. -/
theorem takeBeats_whole (w : BitVec 32) (got : List Byte) (before : Nat) (beats more : List (BitVec 32))
    (h : got.length + beats.length = textBeats w) :
    takeBeats w got before (beats ++ more) = .request w (got ++ beats.map beatByte) (before + beats.length) := by
  have hneed : textBeats w - got.length = beats.length := by omega
  simp [takeBeats, hneed]

/-- With beats still missing all are taken (R91). -/
theorem takeBeats_missing (w : BitVec 32) (got : List Byte) (before : Nat) (beats : List (BitVec 32))
    (h : got.length + beats.length < textBeats w) :
    takeBeats w got before beats = .partly (some { word := w, got := got ++ beats.map beatByte }) (before + beats.length) :=
  if_neg (by omega)

theorem step_partly (s : State) (rx : Option Rx) (n : Nat) (hreset : s.rst.head? ≠ some 0) (hwork : s.work = []) (hbusy : s.busy = false)
    (h : receive s.rx s.offered = .partly rx n) : step s = .next (s.transfer rx n) := by
  rw [step_port s hreset hwork hbusy, portCycle, h]

/-- Settles O6. -/
theorem stepRunsCommandWord : Obligations.StepRunsCommandWord := by
  intro s w beats rest i hquiet hwork hbusy hrx hcmd hlen hdecode
  have hdecode : decode (.cw w (beats.map beatByte)) = .ok i := hdecode
  rw [step_request s w beats rest hquiet hwork hbusy hrx hcmd hlen, fetch, hdecode]

/-- Settles O10: the port takes nothing, and nothing is nearer. -/
theorem idleBlockDoesNothing : Obligations.IdleBlockDoesNothing := by
  intro s hreset hwork hbusy hrx hcmd
  have hoffered : s.offered = [] := by unfold State.offered; split <;> simp [hcmd]
  rw [step_partly s none 0 hreset hwork hbusy (by rw [hrx, hoffered]; rfl)]
  simp [State.transfer, ← hrx]

/-- Settles O8: the word is on the port or was taken before, and its beats are missing or whole. -/
theorem beatsGatherAcrossSteps : Obligations.BeatsGatherAcrossSteps := by
  refine ⟨fun s w beats hwork hbusy hrx hcmd hmissing hquiet => ?_,
    fun s w got hreset hwork hbusy hrx => ⟨fun hmissing hquiet => ?_, fun beats rest i hcmd hwhole hquiet hdecode => ?_⟩⟩
  · rw [Nat.add_comm] at hquiet
    have hlen : s.cmd.length = beats.length + 1 := by rw [hcmd, List.length_cons]
    have hreceive : receive s.rx s.offered = .partly (some { word := w, got := beats.map beatByte }) (1 + beats.length) := by
      rw [offered_eq_cmd s (hlen ▸ hquiet), hrx, hcmd]
      exact takeBeats_missing w [] 1 beats (by simpa using hmissing)
    rw [step_partly s _ _ (Quiet_ne hquiet) hwork hbusy hreceive, State.transfer, List.drop_of_length_le (by omega)]
    rfl
  · have hreceive : receive s.rx s.offered = .partly (some { word := w, got := got ++ s.cmd.map beatByte }) s.cmd.length := by
      rw [offered_eq_cmd s hquiet, hrx, receive, takeBeats_missing w got 0 s.cmd hmissing, Nat.zero_add]
    rw [step_partly s _ _ hreset hwork hbusy hreceive, State.transfer, List.drop_length]
    rfl
  · obtain ⟨more, hoffered⟩ := offered_of_quiet s beats rest hquiet hcmd
    have hreceive : receive s.rx s.offered = .request w (got ++ beats.map beatByte) beats.length := by
      rw [hoffered, hrx, receive, takeBeats_whole w got 0 beats more hwhole, Nat.zero_add]
    have hdecode : decode (.cw w (got ++ beats.map beatByte)) = .ok i := hdecode
    rw [step_port s hreset hwork hbusy, portCycle, hreceive]
    simp [fetch, hdecode, State.transfer, hcmd]

/-! ### The reset -/

theorem step_reset (s : State) (hdue : s.rst.head? = some 0) : step s = .next (s.askedNext.hardwareReset s.inProgress) := by
  simp [step, cycle, State.resetDue, hdue]

/-- The request at a reset is the one on the port, or that of the write next in the queue (log 23). -/
theorem State.askedNext_wr_cases (s : State) (b : Byte) (h : s.askedNext.wr = some b) :
    s.wr = some b ∨ ∃ item rest place, s.work = item :: rest ∧ (expand s.cfg.backlight item).head? = some (.write place b) := by
  unfold State.askedNext at h
  split at h
  · exact .inl h
  · next p hp =>
    obtain ⟨item, hhead, hexpand⟩ := Option.bind_eq_some_iff.mp hp
    obtain ⟨rest, hwork⟩ := List.head?_eq_some_iff.mp hhead
    cases p with
    | wait => exact .inl h
    | report => exact .inl h
    | write place c => cases h; exact .inr ⟨item, rest, place, hwork, hexpand⟩

theorem State.lines_of_bus_write {s t : State} {b : Byte} (hbuild : t.build = s.build)
    (h : t.bus = s.bus.write s.build.i2cAddr.toNat b) : t.lines = b := by
  rw [State.lines, h, hbuild, Memory.read_write_same]

theorem State.lines_congr {s t : State} (hbuild : t.build = s.build) (hbus : t.bus = s.bus) : t.lines = s.lines := by
  rw [State.lines, State.lines, hbuild, hbus]

/-- With nothing in progress no write is outstanding, and none is next. -/
theorem hardwareReset_not_inProgress (s : State) (h : s.inProgress = false) :
    (s.askedNext.hardwareReset s.inProgress).bus = s.bus ∧ (s.askedNext.hardwareReset s.inProgress).device = s.device := by
  obtain ⟨⟨_, hwork⟩, hwr⟩ : (s.busy = false ∧ s.work = []) ∧ s.wr = none := by simpa [State.inProgress] using h
  have hasked : s.askedNext = s := by simp [State.askedNext, hwork]
  rw [hasked, h]
  exact ⟨by simp [State.hardwareReset, hwr], rfl⟩

/-- Settles O9: the fields of `State.hardwareReset`, and the byte of the request if it landed. -/
theorem stepTakesReset : Obligations.StepTakesReset := by
  intro s hdue
  refine ⟨_, step_reset s hdue, rfl, rfl, rfl, rfl, rfl, rfl, rfl, rfl, by simp, by simp, by simp, by simp, by simp, by simp, by simp, ?lines,
    ?other, hardwareReset_not_inProgress s⟩
  case lines =>
    rcases hardwareReset_bus_cases s.inProgress s.askedNext with hbus | ⟨b, hwr, hbus⟩
    · exact .inl (State.lines_congr (by simp) (by simpa using hbus))
    · rw [State.lines_of_bus_write (by simp) hbus]
      exact .inr (s.askedNext_wr_cases b hwr)
  case other =>
    intro a ha
    rw [hardwareReset_read_other _ _ a (by simpa using ha), State.askedNext_bus]

/-! ### Resets between transfers -/

/-- A run of the machine goes through a step that answers. -/
theorem core_run_succ {n : Nat} {s u : State} (h : step s = .next u) :
    Host.Core.run Sys2Proof.core (n + 1) s = Host.Core.run Sys2Proof.core n u := by
  have h : Sys2Proof.core.step s = .next u := h
  simp only [Host.Core.run, h]

theorem core_run_two {s u t : State} (hu : step s = .next u) (ht : step u = .next t) : Host.Core.run Sys2Proof.core 2 s = .next t := by
  rw [core_run_succ hu, core_run_succ ht]
  rfl

/-- A reset due after so many transfers of a PRINT word and its beats: a step takes those, and no more (R261). -/
theorem step_until_reset (s : State) (w : BitVec 32) (beats : List (BitVec 32)) (k : Nat) (later : List Nat) (hwork : s.work = [])
    (hbusy : s.busy = false) (hrx : s.rx = none) (hcmd : s.cmd = w :: beats) (hrst : s.rst = (k + 1) :: later) (hk : k + 1 ≤ textBeats w)
    (hoffer : k ≤ beats.length) : ∃ rx, step s = .next (s.transfer rx (k + 1)) := by
  have htaken : (beats.take k).length = k := List.length_take_of_le hoffer
  have hoffered : s.offered = w :: beats.take k := by simp [State.offered, hrst, hcmd]
  have hmissing := takeBeats_missing w [] 1 (beats.take k) (by rw [htaken]; simpa using hk)
  rw [htaken, Nat.add_comm 1] at hmissing
  exact ⟨_, step_partly s _ _ (by simp [hrst]) hwork hbusy (by rw [hrx, hoffered]; exact hmissing)⟩

/-- Settles O53: the transfers before the reset are taken, or the word refused, and the next step is the reset of an idle block. -/
theorem resetBetweenTransfers : Obligations.ResetBetweenTransfers := by
  refine ⟨fun s w beats k later hwork hbusy hwr hrx hcmd hrst hpos hk hoffer => ?_,
    fun s w rest later hwork hbusy hwr hrx hphase hop hcmd hrst => ?_⟩
  · obtain ⟨k, rfl⟩ : ∃ j, k = j + 1 := ⟨k - 1, by omega⟩
    obtain ⟨rx, htake⟩ := step_until_reset s w beats k later hwork hbusy hrx hcmd hrst hk (by simpa [hcmd] using hoffer)
    obtain ⟨hbus, hdevice⟩ := hardwareReset_not_inProgress (s.transfer rx (k + 1)) (by simp [State.inProgress, hbusy, hwork, hwr])
    exact ⟨_, core_run_two htake (step_reset _ (by simp [hrst, rstAfter])), rfl, rfl, by simp, by simp [hrst, rstAfter], rfl, by simp,
      by simp, hbus, hdevice⟩
  · have hlen : ([] : List (BitVec 32)).length = textBeats w := (textBeats_eq_zero (by simp [hop])).symm
    have hrefuse : step s = .next (({ s with cmd := rest, rst := rstAfter 1 s.rst } : State).refuse) := by
      rw [step_request s w [] rest (fun k hk => by simp [hrst] at hk; simp [← hk]) hwork hbusy hrx hcmd hlen, fetch, List.map_nil,
        decode_cw_construct hop]
      exact exec_refused _ _ rfl hbusy (by simp [acceptedIn, hphase])
    have hidle := hardwareReset_not_inProgress ({ s with cmd := rest, rst := rstAfter 1 s.rst } : State).refuse
      (by simp [State.inProgress, hbusy, hwork, hwr])
    exact ⟨_, core_run_two hrefuse (step_reset _ (by simp [hrst, rstAfter])), rfl, by simp, by simp [hrst, rstAfter], by simp; rfl, rfl,
      by simp, hidle.1⟩

end Sys2Proof.Machine

/-!
The events of an operation. An accepted operation emits a head that writes nothing and then the bytes that it shows the display, twelve events each
(`operationTrace_eq`); whatever the transport answers and whenever reset rises, the events of an operation are, but for an answer, a beginning of these
(`exec_events_prefix`). What every write and every wait keeps to is then a fact about a nibble, a byte and a list of bytes.
-/

namespace Sys2Proof.Machine

/-! ### Head and bytes -/

/-- What an accepted operation emits before its bytes: the power-up wait of CONSTRUCT, the report of an invalid line (R110, R172). -/
def operationHead (build : Build) (i : Instr) : List Event :=
  match i with
  | .construct _ _ _ => [.waitMs build.powerUpMs]
  | .print _ line => if line = 1#8 ∨ line = 2#8 then [] else [.invalidLine]
  | _ => []

/-- The events of bytes sent one after the other. -/
def bytesTrace (build : Build) (bl : Bool) (bytes : List (Mode × Byte)) : List Event :=
  bytes.flatMap fun mb => byteTrace build bl mb.1 mb.2

@[simp] theorem bytesTrace_nil (build : Build) (bl : Bool) : bytesTrace build bl [] = [] := rfl

theorem bytesTrace_cons (build : Build) (bl : Bool) (m : Mode) (v : Byte) (bytes : List (Mode × Byte)) :
    bytesTrace build bl ((m, v) :: bytes) = byteTrace build bl m v ++ bytesTrace build bl bytes := rfl

theorem bytesTrace_map (build : Build) (bl : Bool) (m : Mode) (text : List Byte) :
    bytesTrace build bl (text.map fun c => (m, c)) = text.flatMap (byteTrace build bl m) := by
  simp only [bytesTrace, List.flatMap_map]

theorem operationTrace_eq (i : Instr) (s : State) (p : Phase) (h : acceptedIn i = some p) :
    operationTrace i s = operationHead s.build i ++ bytesTrace s.build (backlightOf i s) (bytesShown i) := by
  cases i with
  | construct width height backlight => exact congrArg (_ :: ·) (bytesTrace_map _ _ _ _).symm
  | print text line =>
    have htext := bytesTrace_map s.build s.cfg.backlight .data text
    by_cases h1 : line = 1#8
    · subst h1; simp [operationTrace, printTrace, operationHead, bytesShown, backlightOf, bytesTrace_cons, htext]
    · by_cases h2 : line = 2#8
      · subst h2; simp [operationTrace, printTrace, operationHead, bytesShown, backlightOf, bytesTrace_cons, htext]
      · simp [operationTrace, printTrace, operationHead, bytesShown, backlightOf, htext, h1, h2]
  | clear => simp [operationTrace, clearTrace, operationHead, bytesShown, backlightOf, bytesTrace]
  | _ => cases h

theorem writesOf_operationHead (build : Build) (i : Instr) : writesOf (operationHead build i) = [] := by
  unfold operationHead
  split
  · rfl
  · split <;> rfl
  · rfl

theorem writesOf_operationTrace (i : Instr) (s : State) (p : Phase) (h : acceptedIn i = some p) :
    writesOf (operationTrace i s) = writesOf (bytesTrace s.build (backlightOf i s) (bytesShown i)) := by
  rw [operationTrace_eq i s p h, writesOf_append, writesOf_operationHead, List.nil_append]

/-! ### A beginning of the events -/

/-- The event, were it a write, answered Ok. -/
def answeredOk : Event → Event
  | .write b _ => .write b .ok
  | .wait n => .wait n
  | .waitMs n => .waitMs n
  | .invalidLine => .invalidLine

theorem answeredOk_waitEvent (build : Build) (w : Wait) : answeredOk (waitEvent build w) = waitEvent build w := by
  cases w <;> rfl

theorem runEvents_prefix (build : Build) (ps : List Prim) (answers : List Answer) (rst : List Nat) :
    (runEvents build ps answers rst).map answeredOk <+: ps.map (okEvent build) := by
  induction ps generalizing answers rst with
  | nil => exact List.prefix_rfl
  | cons p ps ih =>
    unfold runEvents
    split
    · exact List.nil_prefix
    · split
      · exact List.nil_prefix
      · exact List.prefix_cons_inj _ |>.mpr List.nil_prefix
      · exact List.prefix_cons_inj _ |>.mpr (ih _ _)
      · rw [List.map_cons, answeredOk_waitEvent]; exact List.prefix_cons_inj _ |>.mpr (ih _ _)
      · exact List.prefix_cons_inj _ |>.mpr (ih _ _)

/-- The events of a public operation or a sent byte, all answered Ok. -/
def fullTrace (i : Instr) (s : State) : List Event :=
  match sentByte i with
  | some (m, v) => byteTrace s.build s.cfg.backlight m v
  | none => operationTrace i s

theorem fullTrace_sent {i : Instr} {m : Mode} {v : Byte} (s : State) (h : sentByte i = some (m, v)) :
    fullTrace i s = byteTrace s.build s.cfg.backlight m v := by
  simp [fullTrace, h]

theorem fullTrace_command {i : Instr} (s : State) (h : isCommand i = true) : fullTrace i s = operationTrace i s := by
  cases i with
  | construct | print | clear | cwReserved => rfl
  | _ => cases h

/-- A sent byte, or the head and the bytes of a command word; nothing for a reserved word. -/
theorem fullTrace_eq (i : Instr) (s : State) (hi : isCommand i = true ∨ sentByte i ≠ none) :
    ∃ head bytes, fullTrace i s = head ++ bytesTrace s.build (backlightOf i s) bytes ∧
      (head = [] ∨ head = [.waitMs s.build.powerUpMs] ∨ head = [.invalidLine]) := by
  rcases hi with hc | hsent
  · rw [fullTrace_command s hc]
    cases ha : acceptedIn i with
    | none =>
      have hreserved : operationTrace i s = [] := by
        cases i with
        | construct | print | clear => cases ha
        | _ => rfl
      exact ⟨[], [], hreserved, .inl rfl⟩
    | some p =>
      refine ⟨_, _, operationTrace_eq i s p ha, ?_⟩
      unfold operationHead
      split
      · exact .inr (.inl rfl)
      · split
        · exact .inl rfl
        · exact .inr (.inr rfl)
      · exact .inl rfl
  · obtain ⟨⟨m, v⟩, hmv⟩ := Option.ne_none_iff_exists'.mp hsent
    have hbl : backlightOf i s = s.cfg.backlight := by
      cases i with
      | construct => cases hmv
      | _ => rfl
    exact ⟨[], [(m, v)], by simp [fullTrace_sent s hmv, bytesTrace, hbl], .inl rfl⟩

/-- Whatever the answers and the resets, the events are those of the operation up to where it stopped. -/
theorem exec_events_prefix (i : Instr) (s t : State) (events : List Event) (hi : isCommand i = true ∨ sentByte i ≠ none)
    (h : exec i s = .next t) (ht : t.trace = s.trace ++ events) : events.map answeredOk <+: fullTrace i s := by
  cases hc : isCommand i with
  | true =>
    obtain rfl : events = commandEvents i s := List.append_cancel_left (ht.symm.trans (exec_command_trace i s t hc h))
    rw [fullTrace_command s hc]
    unfold commandEvents
    split
    · next hacc => rw [← begun_events i s _ hacc.2]; exact runEvents_prefix _ _ _ _
    · exact List.nil_prefix
  | false =>
    obtain ⟨⟨m, v⟩, hmv⟩ := Option.ne_none_iff_exists'.mp (hi.resolve_left (by simp [hc]))
    rw [exec_inner i s hc, (sentByte_innerEvents i m v hmv).2] at h
    obtain rfl : events = _ := List.append_cancel_left (ht.symm.trans (runInner_trace _ s t h))
    rw [fullTrace_sent s hmv, ← sendByte_events]
    exact runEvents_prefix _ _ _ _

theorem writesOf_map_answeredOk (events : List Event) : writesOf (events.map answeredOk) = writesOf events := by
  induction events with
  | nil => rfl
  | cons e es ih => cases e <;> simp [answeredOk, writesOf, ih]

theorem exec_writes_prefix (i : Instr) (s t : State) (events : List Event) (hi : isCommand i = true ∨ sentByte i ≠ none)
    (h : exec i s = .next t) (ht : t.trace = s.trace ++ events) : writesOf events <+: writesOf (fullTrace i s) := by
  obtain ⟨more, hmore⟩ := exec_events_prefix i s t events hi h ht
  exact ⟨writesOf more, by rw [← hmore, writesOf_append, writesOf_map_answeredOk]⟩

theorem getElem?_of_prefix {α : Type} {l l' : List α} {k : Nat} {a : α} (h : l <+: l') (hk : l[k]? = some a) : l'[k]? = some a := by
  obtain ⟨more, rfl⟩ := h
  rw [List.getElem?_append_left (List.getElem?_eq_some_iff.mp hk).1, hk]

/-! ### The backlight -/

theorem byteTrace_carries (build : Build) (bl : Bool) (m : Mode) (v : Byte) : ∀ e ∈ byteTrace build bl m v, EventCarries bl e := by
  rw [← sendByte_events]
  exact List.forall_mem_map.mpr fun p hp => (sendByte_carries bl m v p hp).okEvent build

theorem fullTrace_carries (i : Instr) (s : State) (hi : isCommand i = true ∨ sentByte i ≠ none) :
    ∀ e ∈ fullTrace i s, EventCarries (backlightOf i s) e := by
  obtain ⟨head, bytes, hfull, hhead⟩ := fullTrace_eq i s hi
  rw [hfull, List.forall_mem_append]
  constructor
  · rcases hhead with rfl | rfl | rfl
    · exact List.forall_mem_nil _
    · exact List.forall_mem_singleton.mpr nofun
    · exact List.forall_mem_singleton.mpr nofun
  · intro e he
    obtain ⟨⟨m, v⟩, _, he⟩ := List.mem_flatMap.mp he
    exact byteTrace_carries s.build _ m v e he

/-- Settles O29: the write, answered Ok, is one of the operation's. -/
theorem backlightInEveryWrite : Obligations.BacklightInEveryWrite := by
  intro i s t events hi h ht b r hb
  have hmem : answeredOk (.write b r) ∈ fullTrace i s := (exec_events_prefix i s t events hi h ht).subset (List.mem_map_of_mem hb)
  exact fullTrace_carries i s hi _ hmem b .ok rfl

/-! ### The bits of a nibble's writes -/

/-- A byte that puts RS and the nibble `d` on the display's lines, with R/W clear and the backlight, whatever Enable (R54, R81). -/
structure PacketOf (bl : Bool) (m : Mode) (d : Nibble) (b : Byte) : Prop where
  readWrite : b.getLsbD 1 = false
  backlight : b.getLsbD 3 = bl
  lines : linesNibble b = (m, d)

theorem enableSet_readWrite (p : Byte) : (enableSet p).getLsbD 1 = p.getLsbD 1 := by
  simp [enableSet, Config.enableBit]

theorem enableClear_readWrite (p : Byte) : (enableClear p).getLsbD 1 = p.getLsbD 1 := by
  simp [enableClear, Config.enableBit]

theorem linesNibble_enableSet (p : Byte) : linesNibble (enableSet p) = linesNibble p := by
  revert p; decide

theorem PacketOf.set {bl : Bool} {m : Mode} {d : Nibble} {b : Byte} (h : PacketOf bl m d b) : PacketOf bl m d (enableSet b) :=
  ⟨(enableSet_readWrite b).trans h.readWrite, (enableSet_backlight b).trans h.backlight, (linesNibble_enableSet b).trans h.lines⟩

theorem PacketOf.clear {bl : Bool} {m : Mode} {d : Nibble} {b : Byte} (h : PacketOf bl m d b) : PacketOf bl m d (enableClear b) :=
  ⟨(enableClear_readWrite b).trans h.readWrite, (enableClear_backlight b).trans h.backlight, (linesNibble_enableClear b).trans h.lines⟩

/-- The RS line is the mode. -/
theorem PacketOf.mode_bit {bl : Bool} {m : Mode} {d : Nibble} {b : Byte} (h : PacketOf bl m d b) : b.getLsbD 0 = m.bit := by
  rw [← (Prod.mk.inj h.lines).1]
  cases b.getLsbD 0 <;> rfl

theorem readWrite_of_present {p : Byte} (h : primLegal (.write .present p) = true) : p.getLsbD 1 = false := by
  simp only [primLegal, Bool.and_eq_true, Bool.not_eq_true'] at h
  exact h.1

theorem highPacket_packetOf (bl : Bool) (m : Mode) (v : Byte) : PacketOf bl m (v.extractLsb' 4 4) (highPacket bl m v) :=
  ⟨readWrite_of_present (highPacket_present bl m v), highPacket_backlight bl m v, linesNibble_highPacket bl m v⟩

theorem lowPacket_packetOf (bl : Bool) (m : Mode) (v : Byte) : PacketOf bl m (v.extractLsb' 0 4) (lowPacket bl m v) :=
  ⟨readWrite_of_present (lowPacket_present bl m v), lowPacket_backlight bl m v, linesNibble_lowPacket bl m v⟩

theorem enable_of_present {p : Byte} (h : primLegal (.write .present p) = true) : p.getLsbD 2 = false := by
  simp only [primLegal, Bool.and_eq_true, Bool.not_eq_true'] at h
  exact h.2

/-- The writes in groups of three, of which the second has Enable set, none with R/W. -/
def EnablePulsed (writes : List Byte) : Prop :=
  ∀ (k : Nat) (b : Byte), writes[k]? = some b → b.getLsbD 2 = decide (k % 3 = 1) ∧ b.getLsbD 1 = false

theorem EnablePulsed.nil : EnablePulsed [] := nofun

/-- The three writes of a nibble, before what is so already. -/
theorem EnablePulsed.nibble {bl : Bool} {m : Mode} {d : Nibble} {p : Byte} {writes : List Byte} (hp : PacketOf bl m d p)
    (hlow : p.getLsbD 2 = false) (h : EnablePulsed writes) : EnablePulsed (p :: enableSet p :: enableClear p :: writes) := by
  intro k b hb
  match k with
  | 0 => cases hb; exact ⟨hlow, hp.readWrite⟩
  | 1 => cases hb; exact ⟨enableSet_enable p, hp.set.readWrite⟩
  | 2 => cases hb; exact ⟨enableClear_enable p, hp.clear.readWrite⟩
  | k + 3 =>
    rw [Nat.add_mod_right]
    exact h k b hb

theorem writesOf_byteTrace (build : Build) (bl : Bool) (m : Mode) (v : Byte) :
    writesOf (byteTrace build bl m v) =
      [highPacket bl m v, enableSet (highPacket bl m v), enableClear (highPacket bl m v),
        lowPacket bl m v, enableSet (lowPacket bl m v), enableClear (lowPacket bl m v)] := by
  rw [byteTrace_eq_nibbles, writesOf_append, writesOf_nibbleTrace, writesOf_nibbleTrace]
  rfl

theorem EnablePulsed.bytes (build : Build) (bl : Bool) (bytes : List (Mode × Byte)) :
    EnablePulsed (writesOf (bytesTrace build bl bytes)) := by
  induction bytes with
  | nil => exact .nil
  | cons mv bytes ih =>
    obtain ⟨m, v⟩ := mv
    rw [bytesTrace_cons, writesOf_append, writesOf_byteTrace]
    exact .nibble (highPacket_packetOf bl m v) (enable_of_present (highPacket_present bl m v))
      (.nibble (lowPacket_packetOf bl m v) (enable_of_present (lowPacket_present bl m v)) ih)

theorem fullTrace_enablePulsed (i : Instr) (s : State) (hi : isCommand i = true ∨ sentByte i ≠ none) :
    EnablePulsed (writesOf (fullTrace i s)) := by
  obtain ⟨head, bytes, hfull, hhead⟩ := fullTrace_eq i s hi
  rw [hfull, writesOf_append]
  have hnone : writesOf head = [] := by rcases hhead with rfl | rfl | rfl <;> rfl
  rw [hnone]
  exact .bytes _ _ _

/-- Settles O31: the writes are a beginning of writes in groups of three. -/
theorem enableInSecondWriteOnly : Obligations.EnableInSecondWriteOnly := by
  intro i s t events hc h ht k b hb
  exact fullTrace_enablePulsed i s (.inl hc) k b (getElem?_of_prefix (exec_writes_prefix i s t events (.inl hc) h ht) hb)

/-- The six writes of a byte carry its mode and, three each, its halves. -/
theorem writesOf_byteTrace_packetOf (build : Build) (bl : Bool) (m : Mode) (v : Byte) (k : Nat) (b : Byte)
    (h : (writesOf (byteTrace build bl m v))[k]? = some b) :
    PacketOf bl m (if k < 3 then v.extractLsb' 4 4 else v.extractLsb' 0 4) b := by
  have hhigh := highPacket_packetOf bl m v
  have hlow := lowPacket_packetOf bl m v
  rw [writesOf_byteTrace] at h
  match k with
  | 0 => cases h; exact hhigh
  | 1 => cases h; exact hhigh.set
  | 2 => cases h; exact hhigh.clear
  | 3 => cases h; exact hlow
  | 4 => cases h; exact hlow.set
  | 5 => cases h; exact hlow.clear
  | k + 6 => cases h

/-- Settles O32: the writes are a beginning of the six. -/
theorem writesOfAByte : Obligations.WritesOfAByte := by
  intro i m v s t events hi h ht
  have hsent : isCommand i = true ∨ sentByte i ≠ none := .inr (by simp [hi])
  have hprefix := exec_writes_prefix i s t events hsent h ht
  have hfull := fullTrace_sent s hi
  refine ⟨?_, fun k b hb => ?_⟩
  · have hlen := hprefix.length_le
    rw [hfull, writesOf_byteTrace] at hlen
    exact hlen
  · have hb := getElem?_of_prefix hprefix hb
    obtain ⟨henable, hrw⟩ := fullTrace_enablePulsed i s hsent k b hb
    have hpacket := writesOf_byteTrace_packetOf s.build s.cfg.backlight m v k b (hfull ▸ hb)
    exact ⟨hrw, hpacket.backlight, henable, hpacket.mode_bit, (Prod.mk.inj hpacket.lines).2⟩

/-! ### The waits between writes -/

theorem spacedFrom_map_answeredOk (armed : Bool) (events : List Event) :
    spacedFrom armed (events.map answeredOk) = spacedFrom armed events := by
  induction events generalizing armed with
  | nil => rfl
  | cons e es ih => cases e <;> simp [answeredOk, spacedFrom, ih]

/-- A beginning of a trace is spaced if the trace is. -/
theorem spacedFrom_of_append {armed : Bool} {es fs : List Event} (h : spacedFrom armed (es ++ fs) = true) : spacedFrom armed es = true := by
  induction es generalizing armed with
  | nil => rfl
  | cons e es ih =>
    cases e with
    | write b r =>
      simp only [List.cons_append, spacedFrom, Bool.and_eq_true] at h ⊢
      exact ⟨h.1, ih h.2⟩
    | wait n => exact ih h
    | waitMs n => exact ih h
    | invalidLine => exact ih h

/-- A wait of at least one unit follows each write of a nibble, the last one too. -/
theorem spacedFrom_nibbleTrace {build : Build} (hlegal : build.Legal) (p : Byte) (es : List Event) :
    spacedFrom false (nibbleTrace build p ++ es) = spacedFrom false es := by
  obtain ⟨hdelay, hpulse, _⟩ := hlegal
  simp [nibbleTrace, spacedFrom, Nat.ne_of_gt hdelay, Nat.ne_of_gt hpulse]

theorem spacedFrom_bytesTrace {build : Build} (hlegal : build.Legal) (bl : Bool) (bytes : List (Mode × Byte)) :
    spacedFrom false (bytesTrace build bl bytes) = true := by
  induction bytes with
  | nil => rfl
  | cons mv bytes ih =>
    rw [bytesTrace_cons, byteTrace_eq_nibbles, List.append_assoc, spacedFrom_nibbleTrace hlegal, spacedFrom_nibbleTrace hlegal, ih]

/-- Settles O33: the whole trace is spaced, and the events are a beginning of it. -/
theorem waitBetweenWrites : Obligations.WaitBetweenWrites := by
  intro i s t events hi hlegal h ht
  obtain ⟨head, bytes, hfull, hhead⟩ := fullTrace_eq i s hi
  have hspaced : spacedFrom false (fullTrace i s) = true := by
    rw [hfull]
    rcases hhead with rfl | rfl | rfl <;> exact spacedFrom_bytesTrace hlegal _ bytes
  obtain ⟨more, hmore⟩ := exec_events_prefix i s t events hi h ht
  rw [← hmore] at hspaced
  rw [← spacedFrom_map_answeredOk]
  exact spacedFrom_of_append hspaced

/-! ### The waits of a whole operation -/

theorem waitUnits_bytesTrace (build : Build) (bl : Bool) (bytes : List (Mode × Byte)) :
    waitUnits (bytesTrace build bl bytes) = bytes.length * (4 * build.eDelayUnits + 2 * build.ePulseUnits) := by
  have hbyte : ∀ m v, waitUnits (byteTrace build bl m v) = 4 * build.eDelayUnits + 2 * build.ePulseUnits := by
    intro m v
    simp only [byteTrace_eq_nibbles, waitUnits_append, nibbleTrace, waitUnits]
    omega
  induction bytes with
  | nil => simp [waitUnits]
  | cons mv bytes ih => rw [bytesTrace_cons, waitUnits_append, ih, hbyte, List.length_cons, Nat.succ_mul bytes.length, Nat.add_comm]

theorem waitMillis_bytesTrace (build : Build) (bl : Bool) (bytes : List (Mode × Byte)) : waitMillis (bytesTrace build bl bytes) = 0 := by
  induction bytes with
  | nil => rfl
  | cons mv bytes ih =>
    rw [bytesTrace_cons, byteTrace_eq_nibbles, waitMillis_append, waitMillis_append, ih]
    rfl

theorem bytesShown_length (i : Instr) : (bytesShown i).length = bytesSent i := by
  cases i with
  | print text line =>
    by_cases h1 : line = 1#8 <;> by_cases h2 : line = 2#8 <;> simp [bytesShown, bytesSent, h1, h2, Nat.add_comm]
  | _ => rfl

/-- No reset inside and every write answered Ok: the events of an accepted operation are its trace. -/
theorem accepted_answered_events (i : Instr) (s t : State) (events : List Event) (rest : List Answer) (ha : acceptedIn i = some s.phase)
    (hbusy : s.busy = false) (hquiet : s.Quiet (operationTrace i s).length)
    (hanswered : s.Answered (writesOf (operationTrace i s)).length rest) (h : exec i s = .next t) (ht : t.trace = s.trace ++ events) :
    events = operationTrace i s := by
  obtain ⟨u, hu, htrace, _⟩ := accepted_answered_fields i s rest ha hbusy hquiet hanswered
  rw [h] at hu
  cases hu
  exact List.append_cancel_left (ht.symm.trans htrace)

theorem waitUnits_operationHead (build : Build) (i : Instr) : waitUnits (operationHead build i) = 0 := by
  unfold operationHead
  split
  · rfl
  · split <;> rfl
  · rfl

theorem waitMillis_operationHead (build : Build) (i : Instr) : waitMillis (operationHead build i) = millisWaited build i := by
  cases i with
  | print text line => simp only [operationHead]; split <;> rfl
  | _ => rfl

/-- Settles O34: the bytes wait alike, and only the head of CONSTRUCT waits besides. -/
theorem waitSums : Obligations.WaitSums := by
  intro i s t events rest h ht
  refine ⟨fun hsent hquiet hanswered => ?_, fun ha hbusy hquiet hanswered => ?_⟩
  · obtain ⟨⟨m, v⟩, hmv⟩ := Option.ne_none_iff_exists'.mp hsent
    have hbytes : byteTrace s.build s.cfg.backlight m v = bytesTrace s.build s.cfg.backlight [(m, v)] := by simp [bytesTrace]
    rw [sentByte_answered_events i m v s t events rest hmv hquiet hanswered h ht, hbytes, waitUnits_bytesTrace, waitMillis_bytesTrace]
    simp
  · rw [accepted_answered_events i s t events rest ha hbusy hquiet hanswered h ht, operationTrace_eq i s _ ha, waitUnits_append,
      waitMillis_append, waitUnits_bytesTrace, waitMillis_bytesTrace, waitUnits_operationHead, waitMillis_operationHead, bytesShown_length]
    exact ⟨Nat.zero_add _, rfl⟩

/-! ### What the display reads -/

theorem lcdView_bytesTrace (build : Build) (bl : Bool) (bytes : List (Mode × Byte)) : lcdView (writesOf (bytesTrace build bl bytes)) = bytes := by
  induction bytes with
  | nil => rfl
  | cons mv bytes ih => rw [bytesTrace_cons, lcdView_byteTrace_append, ih]

/-- Settles O37: the writes are those of the bytes shown. -/
theorem lcdViewOfOperation : Obligations.LcdViewOfOperation := by
  intro i s t events rest ha hbusy hquiet hanswered h ht
  rw [accepted_answered_events i s t events rest ha hbusy hquiet hanswered h ht, writesOf_operationTrace i s _ ha, lcdView_bytesTrace]

/-- The two toggle writes of a nibble have the falling edge that the display reads it at. -/
theorem lcdNibblesFrom_toggle (p : Byte) (bs : List Byte) :
    lcdNibblesFrom false (enableSet p :: enableClear p :: bs) = linesNibble p :: lcdNibblesFrom false bs := by
  simp [lcdNibblesFrom, linesNibble_enableClear]

/-- Settles O36: four of the six writes are toggle writes, and they show the two nibbles. -/
theorem lcdViewOfToggleWrites : Obligations.LcdViewOfToggleWrites := by
  intro i m v s t events rest hi hquiet hanswered h ht
  rw [sentByte_answered_events i m v s t events rest hi hquiet hanswered h ht, writesOf_byteTrace]
  refine ⟨rfl, rfl, ?_⟩
  simp only [toggleWrites, lcdView, lcdNibblesFrom_toggle, linesNibble_highPacket, linesNibble_lowPacket]
  simp only [lcdNibblesFrom, pairNibbles, extract_high_append_low]

end Sys2Proof.Machine

/-!
Operations that run, fail or are cut (40_construct.md R114, 41_sendbyte_overlay.md R139, 70_reset_and_hazards.md R242), and where the sequencer stands in
them (10_state.md R26). In the events of a byte writes and waits alternate, so that the write number `k` is the event number `2 k` (`Alternating.split`)
and the sequencer has moved twice for each write before it (`seqWrite`).
-/

namespace Sys2Proof.Machine

/-! ### Writes and waits in turn -/

/-- Each write is followed by a wait. -/
inductive Alternating : List Prim → Prop where
  | nil : Alternating []
  | cons (pl : Place) (b : Byte) (w : Wait) {ps : List Prim} (h : Alternating ps) : Alternating (.write pl b :: .wait w :: ps)

theorem Alternating.append {ps qs : List Prim} (h : Alternating ps) (g : Alternating qs) : Alternating (ps ++ qs) := by
  induction h with
  | nil => exact g
  | cons pl b w _ ih => exact .cons pl b w ih

theorem Alternating.length {ps : List Prim} (h : Alternating ps) : ps.length = 2 * writeCount ps := by
  induction h with
  | nil => rfl
  | cons pl b w _ ih => simp only [List.length_cons, writeCount, ih]; omega

/-- Write number `k`, the writes and waits before it in turn too. -/
theorem Alternating.split {ps : List Prim} (h : Alternating ps) (k : Nat) (hk : k < writeCount ps) :
    ∃ pre pl b post, ps = pre ++ .write pl b :: post ∧ writeCount pre = k ∧ Alternating pre := by
  induction h generalizing k with
  | nil => exact absurd hk (Nat.not_lt_zero k)
  | cons pl b w h ih =>
    cases k with
    | zero => exact ⟨[], pl, b, _, rfl, rfl, .nil⟩
    | succ k =>
      obtain ⟨pre, pl', b', post, rfl, hpre, halt⟩ := ih k (Nat.lt_of_succ_lt_succ hk)
      exact ⟨.write pl b :: .wait w :: pre, pl', b', post, rfl, congrArg Nat.succ hpre, .cons pl b w halt⟩

theorem nibble_alternating (p : Byte) : Alternating (nibble p) := .cons _ _ _ (.cons _ _ _ (.cons _ _ _ .nil))

theorem sendByte_alternating (bl : Bool) (m : Mode) (v : Byte) : Alternating (sendByte bl m v) :=
  (nibble_alternating _).append (nibble_alternating _)

theorem flatMap_sendByte_alternating (bl : Bool) (m : Mode) (text : List Byte) : Alternating (text.flatMap (sendByte bl m)) := by
  induction text with
  | nil => exact .nil
  | cons c text ih => exact (sendByte_alternating bl m c).append ih

theorem writeCount_flatMap_sendByte (bl : Bool) (m : Mode) (text : List Byte) :
    writeCount (text.flatMap (sendByte bl m)) = 6 * text.length := by
  induction text with
  | nil => rfl
  | cons c text ih => rw [List.flatMap_cons, writeCount_append, sendByte_writeCount, ih, List.length_cons]; omega

/-! ### Operations answered Ok -/

/-- Settles O17: CLEAR is accepted in Ready, and its trace is that of its one byte. -/
theorem clearSucceeds : Obligations.ClearSucceeds := by
  intro s rest hphase hbusy hquiet hanswered
  obtain ⟨t, hexec, htrace, hstatus, hidle, hop, hresults, hanswers, hwork, hcfg, hlatch, hready, _, _⟩ :=
    accepted_answered_fields .clear s rest (congrArg some hphase.symm) hbusy hquiet hanswered
  exact ⟨t, hexec, htrace, hstatus, hidle, hop, hready.trans hphase, hcfg, hlatch, hresults, hanswers, hwork⟩

/-- Settles O27: the state is `okSteps` of the byte's events, which end with a wait and contain a write. -/
theorem sendByteTrace : Obligations.SendByteTrace := by
  intro i m v s rest hi hquiet hanswered
  refine ⟨_, exec_sentByte_answered i m v s rest hi hquiet hanswered, ?_, by simp, by simp, by simp, by simp, by simp, by simp, by simp, rfl, ?_,
    okSteps_answers_of _ s rest hanswered⟩
  · rw [okSteps_trace, sendByte_events]
  · rw [okSteps_wr, sendByte_writeCount]; rfl

/-! ### One packet -/

/-- An operation that makes one write is a packet's word at its place. -/
theorem decodePkt_writtenByte (i : Instr) (b : Byte) (h : writtenByte i = some b) : ∃ place, decodePkt place b = .ok i := by
  cases i with
  | pktPresent d bl r => cases h; exact ⟨.present, decodePkt_pktByte .present d bl false r⟩
  | pktEset d bl r => cases h; exact ⟨.eset, decodePkt_pktByte .eset d bl true r⟩
  | pktEclr d bl r => cases h; exact ⟨.eclr, decodePkt_pktByte .eclr d bl false r⟩
  | _ => cases h

/-- The bus error bit is set, and the refusal's is not (R93). -/
theorem statusBusError_bits (op : Op) (line : BitVec 8) :
    (statusBusError op line).getLsbD 0 = true ∧ (statusBusError op line).getLsbD 2 = false := by
  unfold statusBusError
  cases softError op line <;> decide

theorem failed_read_cases (b : Byte) (s : State) :
    (s.failed b).bus.read s.build.i2cAddr.toNat = b ∨
      (s.failed b).bus.read s.build.i2cAddr.toNat = s.bus.read s.build.i2cAddr.toNat := by
  rcases failed_bus_cases b s with hbus | hbus <;> rw [hbus]
  · exact .inr rfl
  · exact .inl (Memory.read_write_same _ _ b)

/-- Settles O28: the three answers to the one write. -/
theorem packetWrite : Obligations.PacketWrite := by
  intro i b s hi hquiet
  obtain ⟨place, hdecode⟩ := decodePkt_writtenByte i b hi
  obtain ⟨_, hinner, hevents⟩ := decodePkt_ok place b i hdecode
  have hexec : exec i s = runInner [.write place b] s := by rw [exec_inner i s hinner, hevents]
  refine ⟨fun rest hans => ⟨s.written b, ?ok, by simp, by simp [hans], rfl, by simp, ?other, by simp, by simp, by simp, by simp, by simp, by simp, by simp⟩,
    fun rest hans => ⟨s.failed b, ?err, rfl, by simp [hans], rfl, failed_read_cases b s, failed_read_other b s, rfl, rfl, rfl, rfl, rfl, rfl,
      statusBusError_bits _ _⟩,
    fun hans => ⟨place, hdecode, ?held⟩⟩
  case ok => rw [hexec]; exact congrArg Run.settle (runPrims_answered [.write place b] s rest hquiet hans)
  case other => exact fun a ha => Memory.read_write_other _ ha.symm b
  case err => rw [hexec]; exact congrArg Run.settle (runPrims_err [] [] place b s rest hquiet hans)
  case held => rw [hexec]; exact runInner_write_unanswered place b s (Quiet_ne hquiet) hans

/-! ### Bus errors -/

theorem quiet_mono {n m : Nat} {s : State} (hle : n ≤ m) (h : s.Quiet m) : s.Quiet n := fun k hk => hle.trans (h k hk)

/-- Settles O23: the configuration is written at acceptance, and `State.failed` leaves it. -/
theorem failedConstructKeepsConfiguration : Obligations.FailedConstructKeepsConfiguration := by
  intro s width height backlight k rest hphase hbusy hquiet hk hanswered
  have ha : acceptedIn (.construct width height backlight) = some s.phase := congrArg some hphase.symm
  have hevents : (operationTrace (.construct width height backlight) s).length = 73 := constructTrace_length s.build backlight
  have hwrites : (writesOf (operationTrace (.construct width height backlight) s)).length = 36 :=
    writesOf_constructTrace_length s.build backlight
  obtain ⟨pre, pl, b, post, _, _, hexec⟩ := accepted_err_at _ s k rest ha hbusy (hevents ▸ hquiet) (hwrites ▸ hk) hanswered
  exact ⟨_, hexec, by simpa using hphase, (statusBusError_okSteps_begun _ s pre ha).trans (by simp [softStatus]), rfl, by simp; rfl⟩

/-- Settles O24: write `k` of the byte is its event `2 k`. -/
theorem busErrorInsideByte : Obligations.BusErrorInsideByte := by
  intro i m v s k rest hi hquiet hk hanswered
  obtain ⟨hinner, hevents⟩ := sentByte_innerEvents i m v hi
  obtain ⟨pre, pl, b, post, hsplit, rfl, halt⟩ := (sendByte_alternating s.cfg.backlight m v).split k hk
  have hlen : pre.length + 1 ≤ 12 := by
    rw [← sendByte_length s.cfg.backlight m v, hsplit]
    simp
  have hrun := runPrims_err pre post pl b s rest (quiet_mono hlen hquiet) hanswered
  have htrace : byteTrace s.build s.cfg.backlight m v = pre.map (okEvent s.build) ++ .write b .ok :: post.map (okEvent s.build) := by
    rw [← sendByte_events, hsplit, List.map_append]
    rfl
  have hindex : (pre.map (okEvent s.build)).length = 2 * writeCount pre := by rw [List.length_map, halt.length]
  refine ⟨(okSteps pre s).failed b, b, ?_, ?_, ?_, rfl, rfl, by simp, rfl, failed_okSteps_answers pre b s rest hanswered⟩
  · rw [exec_inner i s hinner, hevents, hsplit, runInner, hrun, Run.settle]
  · rw [htrace, ← hindex]; simp
  · rw [htrace, ← hindex]; simp

/-! ### Resets -/

/-- Where the expander stands at a reset after `pre`: at its last write, or at the write that `p` asks for. -/
theorem lines_at_reset (pre : List Prim) (p : Prim) (s : State) (hwr : s.wr = none) :
    (((okSteps pre s).asked p).hardwareReset true).lines = (okSteps pre s).lines ∨
      ∃ pl, p = .write pl (((okSteps pre s).asked p).hardwareReset true).lines := by
  have hfree : (okSteps pre s).wr = none := by rw [okSteps_wr, hwr, ite_self]
  rcases hardwareReset_bus_cases true ((okSteps pre s).asked p) with hbus | ⟨b, hasked, hbus⟩
  · exact .inl (State.lines_congr (by simp) (by simpa using hbus))
  · have hlines : (((okSteps pre s).asked p).hardwareReset true).lines = b :=
      State.lines_of_bus_write (s := (okSteps pre s).asked p) rfl hbus
    rw [hlines]
    cases p with
    | wait w => rw [State.asked, hfree] at hasked; cases hasked
    | report => rw [State.asked, hfree] at hasked; cases hasked
    | write pl c => cases hasked; exact .inr ⟨pl, rfl⟩

/-- Settles O25: the events are split where the reset is due, and the rest is `State.hardwareReset`. -/
theorem resetCutsOperation : Obligations.ResetCutsOperation := by
  intro i s k later rest ha hbusy hwr hrst hk hanswered
  have hk' : k < (begun i s).events.length := by rwa [begun_events_length i s _ ha]
  obtain ⟨pre, p, post, hsplit, rfl⟩ : ∃ pre p post, (begun i s).events = pre ++ p :: post ∧ pre.length = k :=
    ⟨_, _, _, by rw [List.cons_getElem_drop_succ (h := hk'), List.take_append_drop], List.length_take_of_le hk'.le⟩
  have htrace : operationTrace i s = pre.map (okEvent s.build) ++ okEvent s.build p :: post.map (okEvent s.build) := by
    rw [← begun_events i s _ ha, hsplit, List.map_append, List.map_cons]
  have htake : (operationTrace i s).take pre.length = pre.map (okEvent s.build) := by
    rw [htrace, List.take_left' (List.length_map _)]
  rw [htake] at hanswered ⊢
  rw [← writeCount_eq] at hanswered
  refine ⟨_, accepted_reset i s pre post p later rest ha hbusy hsplit hrst hanswered, by simp, by simp, rfl, rfl, rfl, rfl, rfl, rfl, rfl,
    by simp [okSteps_rst, hrst, rstAfter], ?answers, ?lines⟩
  case answers => simpa using okSteps_answers_of pre (begun i s) rest ((begun_answers i s).trans hanswered)
  case lines =>
    rcases lines_at_reset pre p (begun i s) (by simpa using hwr) with hlines | ⟨pl, hp⟩
    · left
      rw [hlines, okSteps_lines, begun_build, State.lines_congr (begun_build i s) (begun_bus i s)]
    · right
      rw [htrace, List.getElem?_append_right (by simp)]
      conv_lhs => rw [hp]
      simp [okEvent]

/-! ### The sequencer -/

/-- The sequencer's position after a write and the wait that follows it. -/
def seqWrite (q : Seq) : Seq := seqNext (seqNext q)

theorem okSteps_seq_alternating {ps : List Prim} (h : Alternating ps) (s : State) (hop : s.seq.op ≠ .idle) :
    (okSteps ps s).seq = seqWrite^[writeCount ps] s.seq := by
  induction h generalizing s with
  | nil => rfl
  | cons pl b w _ ih =>
    have hpair : (okStep (okStep s (.write pl b)) (.wait w)).seq = seqWrite s.seq := by
      simp [okStep, hop, seqNext_op, seqWrite]
    rw [okSteps_cons, okSteps_cons, ih _ (by simpa using hop), hpair, writeCount, writeCount, Function.iterate_succ_apply]

/-- The position at write `r` of the six of a byte. -/
def seqAtWrite (op : Op) (stage : Stage) (idx r : Nat) : Seq :=
  { op := op, stage := stage, idx := idx, nib := if r < 3 then .hi else .lo, step := Fin.ofNat 6 (2 * (r % 3)) }

/-- Within a byte the position moves to the next write. -/
theorem seqWrite_within (op : Op) (stage : Stage) (idx r : Nat) (hr : r < 5) (hstage : stage = .addr ∨ stage = .body) :
    seqWrite (seqAtWrite op stage idx r) = seqAtWrite op stage idx (r + 1) := by
  rcases hstage with rfl | rfl <;> interval_cases r <;> rfl

/-- After the last write of a character comes the first of the next one. -/
theorem seqWrite_body_last (op : Op) (idx : Nat) : seqWrite (seqAtWrite op .body idx 5) = seqAtWrite op .body (idx + 1) 0 := rfl

/-- After the last write of the address byte comes the body. -/
theorem seqWrite_addr_last (op : Op) (idx : Nat) : seqWrite (seqAtWrite op .addr idx 5) = seqAtWrite op .body 0 0 := rfl

theorem seqWrite_iterate_body (op : Op) (k : Nat) :
    seqWrite^[k] (seqAtWrite op .body 0 0) = seqAtWrite op .body (k / 6) (k % 6) := by
  induction k with
  | zero => rfl
  | succ k ih =>
    rw [Function.iterate_succ_apply', ih]
    by_cases hlast : k % 6 = 5
    · rw [hlast, seqWrite_body_last]
      congr 1 <;> omega
    · rw [seqWrite_within op .body _ _ (by omega) (.inr rfl)]
      congr 1 <;> omega

theorem seqWrite_iterate_addr_lt (op : Op) (k : Nat) (hk : k < 6) : seqWrite^[k] (seqAtWrite op .addr 0 0) = seqAtWrite op .addr 0 k := by
  induction k with
  | zero => rfl
  | succ k ih => rw [Function.iterate_succ_apply', ih (by omega), seqWrite_within op .addr 0 k (by omega) (.inl rfl)]

theorem seqWrite_iterate_addr (op : Op) (k : Nat) :
    seqWrite^[k] (seqAtWrite op .addr 0 0) = seqAtWrite op (if k < 6 then .addr else .body) (k / 6 - 1) (k % 6) := by
  by_cases hk : k < 6
  · rw [seqWrite_iterate_addr_lt op k hk, if_pos hk]
    congr 1 <;> omega
  · obtain ⟨j, rfl⟩ : ∃ j, k = j + 6 := ⟨k - 6, by omega⟩
    rw [Function.iterate_add_apply, Function.iterate_succ_apply' _ 5, seqWrite_iterate_addr_lt op 5 (by decide), seqWrite_addr_last,
      seqWrite_iterate_body, if_neg hk]
    congr 1 <;> omega

/-- The fields of a position, in the numbers of the spec: nibble and step of a write. -/
theorem seqAtWrite_fields (op : Op) (stage : Stage) (idx k : Nat) :
    (seqAtWrite op stage idx (k % 6)).op = op ∧ (seqAtWrite op stage idx (k % 6)).stage = stage ∧
      (seqAtWrite op stage idx (k % 6)).idx = idx ∧ (seqAtWrite op stage idx (k % 6)).nib = (if k % 6 < 3 then .hi else .lo) ∧
      (seqAtWrite op stage idx (k % 6)).step.val = 2 * (k % 3) := by
  refine ⟨rfl, rfl, rfl, rfl, ?_⟩
  simp only [seqAtWrite, Fin.val_ofNat]
  omega

/-- An accepted operation whose events are `head`, without a write, and then `n` writes and waits in turn, held at write `k`. -/
theorem accepted_held_at (i : Instr) (s : State) (k n : Nat) (head ps : List Prim) (ha : acceptedIn i = some s.phase) (hbusy : s.busy = false)
    (hevents : (begun i s).events = head ++ ps) (hhead : writeCount head = 0) (halt : Alternating ps) (hn : writeCount ps = n)
    (hquiet : s.Quiet (head.length + 2 * n)) (hk : k < n) (hanswered : s.Answered k []) :
    ∃ t, exec i s = .next t ∧ t.busy = true ∧ t.wr.isSome = true ∧ t.seq = seqWrite^[k] (okSteps head (begun i s)).seq := by
  subst hn
  rw [← halt.length] at hquiet
  obtain ⟨pre, pl, b, post, rfl, rfl, hpre⟩ := halt.split k hk
  have hlen : (head ++ pre).length + 1 ≤ head.length + (pre ++ .write pl b :: post).length := by
    simp only [List.length_append, List.length_cons]
    omega
  have hanswered' : s.Answered (writeCount (head ++ pre)) [] := by rwa [writeCount_append, hhead, Nat.zero_add]
  refine ⟨_, accepted_unanswered i s (head ++ pre) post pl b ha hbusy (by rw [hevents, List.append_assoc]) (quiet_mono hlen hquiet) hanswered',
    ?_, rfl, ?_⟩
  · simp [begun_busy i s _ ha]
  · have hop : (okSteps head (begun i s)).seq.op ≠ .idle := by
      rw [okSteps_seq_op, begun_op i s _ ha]
      exact opOf_ne_idle i _ ha
    rw [okSteps_append]
    exact okSteps_seq_alternating hpre _ hop

theorem begun_print_events_valid (s : State) (text : List Byte) (line : BitVec 8) (address : Byte) (h : Config.lineByte line = some address) :
    (begun (.print text line) s).events =
      sendByte s.cfg.backlight .command address ++ text.flatMap (sendByte s.cfg.backlight .data) := by
  have hevents := print_events s.cfg.backlight { text := text, line := line }
  rw [h] at hevents
  exact hevents

theorem begun_print_events_invalid (s : State) (text : List Byte) (line : BitVec 8) (h : Config.lineByte line = none) :
    (begun (.print text line) s).events = [.report] ++ text.flatMap (sendByte s.cfg.backlight .data) := by
  have hevents := print_events s.cfg.backlight { text := text, line := line }
  rw [h] at hevents
  exact hevents

/-- Settles O26: held at write `k`, each operation has moved `k` times from the position where its first write stands. -/
theorem sequencerPosition : Obligations.SequencerPosition := by
  intro s k hbusy hanswered
  refine ⟨fun width height backlight hphase hquiet hk => ?construct, fun text line hphase hline hquiet hk => ?valid,
    fun text line hphase h1 h2 hquiet hk => ?invalid, fun hphase hquiet hk => ?clear⟩
  case construct =>
    obtain ⟨t, hexec, htbusy, hwr, hseq⟩ := accepted_held_at (.construct width height backlight) s k 36 [.wait .powerUp] _
      (congrArg some hphase.symm) hbusy (construct_events backlight s.latch) rfl (flatMap_sendByte_alternating backlight .command _) rfl
      hquiet hk hanswered
    have hstart : (okSteps [.wait .powerUp] (begun (.construct width height backlight) s)).seq = seqAtWrite .construct .body 0 0 := rfl
    refine ⟨t, hexec, htbusy, hwr, ?_⟩
    rw [hseq, hstart, seqWrite_iterate_body]
    exact seqAtWrite_fields _ _ _ k
  case valid =>
    obtain ⟨address, haddress⟩ : ∃ address, Config.lineByte line = some address := by
      rcases hline with rfl | rfl <;> exact ⟨_, rfl⟩
    obtain ⟨t, hexec, htbusy, hwr, hseq⟩ := accepted_held_at (.print text line) s k (6 * (1 + text.length)) []
      (sendByte s.cfg.backlight .command address ++ text.flatMap (sendByte s.cfg.backlight .data)) (congrArg some hphase.symm) hbusy
      (begun_print_events_valid s text line address haddress) rfl
      ((sendByte_alternating s.cfg.backlight .command address).append (flatMap_sendByte_alternating s.cfg.backlight .data text))
      (by rw [writeCount_append, sendByte_writeCount, writeCount_flatMap_sendByte]; omega) (quiet_mono (by simp; omega) hquiet) hk hanswered
    have hstart : (okSteps [] (begun (.print text line) s)).seq = seqAtWrite .print .addr 0 0 := by
      simp [begun, State.accept, seqStart, lineInvalid, haddress, seqAtWrite]
    refine ⟨t, hexec, htbusy, hwr, ?_⟩
    rw [hseq, hstart, seqWrite_iterate_addr]
    exact seqAtWrite_fields _ _ _ k
  case invalid =>
    have haddress : Config.lineByte line = none := by simp [Config.lineByte, h1, h2]
    obtain ⟨t, hexec, htbusy, hwr, hseq⟩ := accepted_held_at (.print text line) s k (6 * text.length) [.report] _ (congrArg some hphase.symm) hbusy
      (begun_print_events_invalid s text line haddress) rfl (flatMap_sendByte_alternating s.cfg.backlight .data text)
      (writeCount_flatMap_sendByte _ _ text) (quiet_mono (by simp; omega) hquiet) hk hanswered
    have hstart : (okSteps [.report] (begun (.print text line) s)).seq = seqAtWrite .print .body 0 0 := by
      simp [okStep, begun, State.accept, seqStart, lineInvalid, haddress, seqAtWrite]
    refine ⟨t, hexec, htbusy, hwr, ?_⟩
    rw [hseq, hstart, seqWrite_iterate_body]
    exact seqAtWrite_fields _ _ _ k
  case clear =>
    obtain ⟨t, hexec, htbusy, hwr, hseq⟩ := accepted_held_at .clear s k 6 [] _ (congrArg some hphase.symm) hbusy
      (clear_events s.cfg.backlight s.latch) rfl (sendByte_alternating s.cfg.backlight .command 0x01) rfl hquiet hk hanswered
    have hstart : (okSteps [] (begun .clear s)).seq = seqAtWrite .clear .body 0 0 := rfl
    have hfields := seqAtWrite_fields .clear .body 0 k
    rw [Nat.mod_eq_of_lt hk] at hfields
    refine ⟨t, hexec, htbusy, hwr, ?_⟩
    rw [hseq, hstart, seqWrite_iterate_body, Nat.div_eq_of_lt hk, Nat.mod_eq_of_lt hk]
    exact hfields

end Sys2Proof.Machine

/-!
The display (10_state.md R38, 70_reset_and_hazards.md R262). The three writes of a nibble reach it with one falling edge of Enable, the third
(`okSteps_nibble_display`); a display in step and given its time takes it, and one not given its time is lost. Two nibbles are a byte
(`okSteps_sendByte_display`), and the operations are lists of bytes.
-/

namespace Sys2Proof.Machine

/-! ### The end of an operation -/

theorem resync_device (s : State) :
    s.resync.device = if s.sync = .awaiting then { half := none, cursor := .home 0, busy := true } else s.device := by
  unfold State.resync
  split <;> rfl

theorem complete_device (s : State) : s.complete.device = if s.seq.op = .construct then s.resync.device else s.device := by
  unfold State.complete
  split <;> simp_all

theorem complete_lines (s : State) : s.complete.lines = s.lines := State.lines_congr s.complete_build s.complete_bus

/-- Only CONSTRUCT's completion touches the display. -/
theorem complete_display_of_ne {s : State} (h : s.seq.op ≠ .construct) : s.complete.sync = s.sync ∧ s.complete.device = s.device := by
  rw [complete_sync, complete_device, if_neg h, if_neg h]
  exact ⟨rfl, rfl⟩

/-! ### One write -/

/-- The display sees a write only at a falling edge of Enable (R61). -/
theorem drive_of_enable_low {s : State} (b : Byte) (h : s.lines.getLsbD 2 = false) : s.drive b = s :=
  if_neg (by rw [fallingEdge, h, Bool.false_and]; exact Bool.false_ne_true)

theorem drive_of_enable_high {s : State} (b : Byte) (h : b.getLsbD 2 = true) : s.drive b = s :=
  if_neg (by rw [fallingEdge, h, Bool.not_true, Bool.and_false]; exact Bool.false_ne_true)

theorem drive_of_falling {s : State} {b : Byte} (hold : s.lines.getLsbD 2 = true) (hnew : b.getLsbD 2 = false) :
    s.drive b = { s.deviceReady with device := deviceTake s.draws (linesNibble b) s.deviceReady.device } :=
  if_pos (by rw [fallingEdge, hold, hnew]; rfl)

@[simp] theorem written_lines (b : Byte) (s : State) : (s.written b).lines = b := State.lines_of_bus_write (by simp) rfl

@[simp] theorem waited_lines (w : Wait) (s : State) : (s.waited w).lines = s.lines := rfl

/-- A display given its time, if it was busy, is busy no more (R247). -/
theorem deviceReady_of_time {s : State} (hsync : s.sync = .inStep) (htime : s.device.busy = true → s.settled.head? = some true) :
    s.deviceReady.sync = .inStep ∧ s.deviceReady.device = { s.device with busy := false } := by
  cases hbusy : s.device.busy with
  | false =>
    have hsame : s.deviceReady = s := by simp [State.deviceReady, hbusy]
    rw [hsame]
    exact ⟨hsync, by rw [← hbusy]⟩
  | true => simp [State.deviceReady, hsync, hbusy, htime hbusy]

/-- A display that is busy and not given its time is lost (U7). -/
theorem deviceReady_without_time {s : State} (hsync : s.sync = .inStep) (hbusy : s.device.busy = true)
    (htime : s.settled.head? ≠ some true) : s.deviceReady.sync = .lost := by
  simp [State.deviceReady, hsync, hbusy, htime]

/-- The high nibble is held, and the low one completes the byte (R59). -/
theorem deviceTake_high (draw : Nat) (n : Mode × Nibble) {d : Device} (h : d.half = none) : deviceTake draw n d = { d with half := some n } := by
  simp only [deviceTake, h]

theorem deviceTake_low (draw : Nat) (n : Mode × Nibble) {d : Device} {m : Mode} {hi : Nibble} (h : d.half = some (m, hi)) :
    deviceTake draw n d = { half := none, cursor := cursorAfter draw m (hi ++ n.2) d.cursor, busy := startsClear m (hi ++ n.2) } := by
  simp only [deviceTake, h]

/-! ### One nibble -/

/-- The display is in step with Enable low, and is as `d` says. -/
structure DisplayAt (d : Device) (s : State) : Prop where
  sync : s.sync = .inStep
  enable : s.lines.getLsbD 2 = false
  device : s.device = d

/-- A display that is not busy and expects a high nibble is ready for a byte. -/
theorem DisplayAt.ready {d : Device} {s : State} (h : DisplayAt d s) (hhalf : d.half = none) (hbusy : d.busy = false) : s.DisplayReady :=
  ⟨h.sync, by rw [h.device, hhalf], h.enable, by rw [h.device, hbusy]; nofun⟩

/-- The display's view of a nibble: unchanged up to the third write (in `u`), which it takes. -/
theorem okSteps_nibble_display (p : Byte) (s : State) (hlow : s.lines.getLsbD 2 = false) :
    ∃ u : State, u.sync = s.sync ∧ u.device = s.device ∧ u.settled = s.settled ∧
      (okSteps (nibble p) s).sync = u.deviceReady.sync ∧
      (okSteps (nibble p) s).device = deviceTake u.draws (linesNibble p) u.deviceReady.device ∧
      (okSteps (nibble p) s).lines.getLsbD 2 = false := by
  have hfirst : s.drive p = s := drive_of_enable_low p hlow
  have hsecond : ((s.written p).waited .eDelay).drive (enableSet p) = (s.written p).waited .eDelay :=
    drive_of_enable_high _ (enableSet_enable p)
  have hthird := drive_of_falling (s := (((s.written p).waited .eDelay).written (enableSet p)).waited .ePulse) (b := enableClear p)
    (by simp) (by simp)
  refine ⟨(((s.written p).waited .eDelay).written (enableSet p)).waited .ePulse, ?_, ?_, ?_, ?_, ?_, ?_⟩
  · simp [hfirst, hsecond]
  · simp [hfirst, hsecond, deviceRested]
  · simp [hfirst, hsecond]
  · simp only [nibble, pulse, okSteps_cons, okSteps_nil, okStep, State.waited_sync, State.written_sync, hthird]
  · simp only [nibble, pulse, okSteps_cons, okSteps_nil, okStep, State.waited_device, State.written_device, hthird, deviceRested,
      linesNibble_enableClear]
  · simp [nibble, pulse, okStep]

/-- A display in step and given its time takes the nibble. -/
theorem okSteps_nibble_inStep (p : Byte) (s : State) (hlow : s.lines.getLsbD 2 = false) (hsync : s.sync = .inStep)
    (htime : s.device.busy = true → s.settled.head? = some true) :
    ∃ draw, DisplayAt (deviceTake draw (linesNibble p) { s.device with busy := false }) (okSteps (nibble p) s) := by
  obtain ⟨u, husync, hudevice, husettled, hsync', hdevice', hlow'⟩ := okSteps_nibble_display p s hlow
  obtain ⟨hready, hrested⟩ := deviceReady_of_time (husync.trans hsync) (by rw [hudevice, husettled]; exact htime)
  exact ⟨u.draws, hsync'.trans hready, hlow', by rw [hdevice', hrested, hudevice]⟩

/-- A display that is busy and not given its time is lost with the nibble. -/
theorem okSteps_nibble_lost (p : Byte) (s : State) (hlow : s.lines.getLsbD 2 = false) (hsync : s.sync = .inStep)
    (hbusy : s.device.busy = true) (htime : s.settled.head? ≠ some true) : (okSteps (nibble p) s).sync = .lost := by
  obtain ⟨u, husync, hudevice, husettled, hsync', _, _⟩ := okSteps_nibble_display p s hlow
  exact hsync'.trans (deviceReady_without_time (husync.trans hsync) (by rw [hudevice]; exact hbusy) (by rw [husettled]; exact htime))

/-! ### One byte -/

/-- A display ready for a byte takes it: a high nibble is expected again, the cursor has moved, and it is busy if the byte is the clear command. -/
theorem okSteps_sendByte_display (bl : Bool) (m : Mode) (v : Byte) (s : State) (h : s.DisplayReady) :
    ∃ draw, DisplayAt { half := none, cursor := cursorAfter draw m v s.device.cursor, busy := startsClear m v }
      (okSteps (sendByte bl m v) s) := by
  obtain ⟨draw, hhigh⟩ := okSteps_nibble_inStep (highPacket bl m v) s h.enable h.sync h.time
  rw [linesNibble_highPacket, deviceTake_high _ _ (by exact h.half)] at hhigh
  obtain ⟨draw', hboth⟩ := okSteps_nibble_inStep (lowPacket bl m v) (okSteps (nibble (highPacket bl m v)) s) hhigh.enable hhigh.sync
    (by rw [hhigh.device]; nofun)
  rw [hhigh.device, linesNibble_lowPacket, deviceTake_low _ _ rfl, extract_high_append_low] at hboth
  rw [sendByte, okSteps_append]
  exact ⟨draw', hboth⟩

/-- Enable is low after a byte, whatever it was before. -/
theorem okSteps_sendByte_lines (bl : Bool) (m : Mode) (v : Byte) (s : State) : (okSteps (sendByte bl m v) s).lines.getLsbD 2 = false := by
  rw [okSteps_lines, sendByte_events, writesOf_byteTrace]
  simp

/-- The clear command takes the cursor home, and the display is busy with it. -/
theorem okSteps_clear_display (bl : Bool) (s : State) (h : s.DisplayReady) :
    DisplayAt { half := none, cursor := .home 0, busy := true } (okSteps (sendByte bl .command 0x01) s) := by
  obtain ⟨_, hat⟩ := okSteps_sendByte_display bl .command 0x01 s h
  exact hat

/-- An address byte takes the cursor to its line. -/
theorem okSteps_address_display (bl : Bool) (address : Byte) (s : State) (haddress : address = 0x80 ∨ address = 0xC0) (h : s.DisplayReady) :
    DisplayAt { half := none, cursor := .line address 0, busy := false } (okSteps (sendByte bl .command address) s) := by
  obtain ⟨_, hat⟩ := okSteps_sendByte_display bl .command address s h
  rcases haddress with rfl | rfl <;> exact hat

/-! ### Several bytes -/

theorem cursorOn_succ (n : Nat) (c : Cursor) : cursorOn (n + 1) c = cursorOn n (cursorNext c) := by
  cases c <;> simp [cursorOn, cursorNext, Nat.add_comm, Nat.add_left_comm]

theorem cursorOn_zero (c : Cursor) : cursorOn 0 c = c := by cases c <;> rfl

/-- The characters of a text move the cursor on; a display that is sent any is busy no more. -/
theorem okSteps_text_display (bl : Bool) (text : List Byte) (s : State) (h : s.DisplayReady) :
    DisplayAt { half := none, cursor := cursorOn text.length s.device.cursor, busy := s.device.busy && text.isEmpty }
      (okSteps (text.flatMap (sendByte bl .data)) s) := by
  induction text generalizing s with
  | nil => exact ⟨h.sync, h.enable, by simp [cursorOn_zero, ← h.half]⟩
  | cons c text ih =>
    obtain ⟨_, hat⟩ := okSteps_sendByte_display bl .data c s h
    have hrest := ih _ (hat.ready rfl rfl)
    rw [hat.device] at hrest
    rw [List.flatMap_cons, okSteps_append, List.length_cons, cursorOn_succ, List.isEmpty_cons, Bool.and_false]
    exact hrest

/-- Commands other than clear leave the display ready for the next byte. -/
theorem okSteps_commands_ready (bl : Bool) (bytes : List Byte) (s : State) (hbytes : ∀ v ∈ bytes, v ≠ 0x01) (h : s.DisplayReady) :
    (okSteps (bytes.flatMap (sendByte bl .command)) s).DisplayReady := by
  induction bytes generalizing s with
  | nil => exact h
  | cons v bytes ih =>
    obtain ⟨hv, hbytes⟩ := List.forall_mem_cons.mp hbytes
    obtain ⟨_, hat⟩ := okSteps_sendByte_display bl .command v s h
    rw [List.flatMap_cons, okSteps_append]
    exact ih _ hbytes (hat.ready rfl (decide_eq_false hv))

/-! ### CLEAR and PRINT -/

@[simp] theorem begun_settled (i : Instr) (s : State) : (begun i s).settled = s.settled := by cases i <;> rfl

theorem begun_lines (i : Instr) (s : State) : (begun i s).lines = s.lines := State.lines_congr (begun_build i s) (begun_bus i s)

theorem begun_displayReady (i : Instr) {s : State} (h : s.DisplayReady) : (begun i s).DisplayReady :=
  ⟨by simpa using h.sync, by simpa using h.half, by rw [begun_lines]; exact h.enable, by simpa using h.time⟩

theorem bytesTrace_length (build : Build) (bl : Bool) (bytes : List (Mode × Byte)) : (bytesTrace build bl bytes).length = 12 * bytes.length := by
  induction bytes with
  | nil => rfl
  | cons mv bytes ih => rw [bytesTrace_cons, List.length_append, ih, byteTrace_length, List.length_cons]; omega

theorem writesOf_bytesTrace_length (build : Build) (bl : Bool) (bytes : List (Mode × Byte)) :
    (writesOf (bytesTrace build bl bytes)).length = 6 * bytes.length := by
  induction bytes with
  | nil => rfl
  | cons mv bytes ih =>
    have hsix : ∀ m v, (writesOf (byteTrace build bl m v)).length = 6 := fun _ _ => rfl
    rw [bytesTrace_cons, writesOf_append, List.length_append, ih, hsix, List.length_cons]
    omega

/-- An accepted operation of `n` events and `k` writes, answered Ok. -/
theorem accepted_answered_counted (i : Instr) (s : State) (rest : List Answer) (n k : Nat) (ha : acceptedIn i = some s.phase)
    (hbusy : s.busy = false) (hn : (operationHead s.build i).length + 12 * bytesSent i = n) (hk : 6 * bytesSent i = k) (hquiet : s.Quiet n)
    (hanswered : s.Answered k rest) : exec i s = .next (okSteps (begun i s).events (begun i s)).complete := by
  refine accepted_answered i s rest ha hbusy ?_ ?_
  · rw [operationTrace_eq i s _ ha, List.length_append, bytesTrace_length, bytesShown_length, hn]
    exact hquiet
  · rw [writesOf_operationTrace i s _ ha, writesOf_bytesTrace_length, bytesShown_length, hk]
    exact hanswered

/-- What an operation other than CONSTRUCT leaves of the display is what its events leave. -/
theorem complete_displayAt {i : Instr} {s : State} {p : Phase} {ps : List Prim} {d : Device} (ha : acceptedIn i = some p) (hop : opOf i ≠ .construct)
    (h : DisplayAt d (okSteps ps (begun i s))) : DisplayAt d (okSteps ps (begun i s)).complete := by
  obtain ⟨hsync, hdevice⟩ := complete_display_of_ne (s := okSteps ps (begun i s)) (by rw [okSteps_seq_op, begun_op i s p ha]; exact hop)
  exact ⟨hsync.trans h.sync, by rw [complete_lines]; exact h.enable, hdevice.trans h.device⟩

theorem clear_display (s : State) (rest : List Answer) (hready : s.DisplayReady) (hphase : s.phase = .ready) (hbusy : s.busy = false)
    (hquiet : s.Quiet 12) (hanswered : s.Answered 6 rest) :
    ∃ t, exec .clear s = .next t ∧ DisplayAt { half := none, cursor := .home 0, busy := true } t := by
  have ha : acceptedIn .clear = some s.phase := congrArg some hphase.symm
  have hevents : (begun .clear s).events = sendByte s.cfg.backlight .command 0x01 := clear_events s.cfg.backlight s.latch
  refine ⟨_, accepted_answered_counted .clear s rest 12 6 ha hbusy rfl rfl hquiet hanswered, complete_displayAt ha nofun ?_⟩
  rw [hevents]
  exact okSteps_clear_display _ _ (begun_displayReady .clear hready)

theorem print_valid_display (s : State) (text : List Byte) (line : BitVec 8) (rest : List Answer) (hready : s.DisplayReady) (hphase : s.phase = .ready)
    (hbusy : s.busy = false) (hline : line = 1#8 ∨ line = 2#8) (hquiet : s.Quiet (12 * (1 + text.length)))
    (hanswered : s.Answered (6 * (1 + text.length)) rest) :
    ∃ t, exec (.print text line) s = .next t ∧
      DisplayAt { half := none, cursor := .line (if line = 1#8 then 0x80 else 0xC0) text.length, busy := false } t := by
  have ha : acceptedIn (.print text line) = some s.phase := congrArg some hphase.symm
  obtain ⟨address, haddress, hbyte, hif⟩ : ∃ address : Byte, Config.lineByte line = some address ∧ (address = 0x80 ∨ address = 0xC0) ∧
      address = if line = 1#8 then 0x80 else 0xC0 := by
    rcases hline with rfl | rfl
    · exact ⟨_, rfl, .inl rfl, rfl⟩
    · exact ⟨_, rfl, .inr rfl, rfl⟩
  have hhead : operationHead s.build (.print text line) = [] := if_pos hline
  have hsent : bytesSent (.print text line) = 1 + text.length := (if_pos hline).trans (Nat.add_comm _ _)
  refine ⟨_, accepted_answered_counted (.print text line) s rest _ _ ha hbusy (by rw [hhead, hsent]; exact Nat.zero_add _) (by rw [hsent])
    hquiet hanswered, complete_displayAt ha nofun ?_⟩
  rw [begun_print_events_valid s text line address haddress, okSteps_append, ← hif]
  have hat := okSteps_address_display s.cfg.backlight address _ hbyte (begun_displayReady (.print text line) hready)
  have htext := okSteps_text_display s.cfg.backlight text _ (hat.ready rfl rfl)
  rw [hat.device, cursorOn, Nat.zero_add] at htext
  exact htext

theorem print_invalid_display (s : State) (text : List Byte) (line : BitVec 8) (rest : List Answer) (hready : s.DisplayReady) (hphase : s.phase = .ready)
    (hbusy : s.busy = false) (h1 : line ≠ 1#8) (h2 : line ≠ 2#8) (hquiet : s.Quiet (1 + 12 * text.length))
    (hanswered : s.Answered (6 * text.length) rest) :
    ∃ t, exec (.print text line) s = .next t ∧
      DisplayAt { half := none, cursor := cursorOn text.length s.device.cursor, busy := s.device.busy && text.isEmpty } t := by
  have ha : acceptedIn (.print text line) = some s.phase := congrArg some hphase.symm
  have hline : ¬ (line = 1#8 ∨ line = 2#8) := not_or.mpr ⟨h1, h2⟩
  have hhead : operationHead s.build (.print text line) = [.invalidLine] := if_neg hline
  have hsent : bytesSent (.print text line) = text.length := if_neg hline
  refine ⟨_, accepted_answered_counted (.print text line) s rest _ _ ha hbusy (by rw [hhead, hsent]; rfl) (by rw [hsent]) hquiet hanswered,
    complete_displayAt ha nofun ?_⟩
  rw [begun_print_events_invalid s text line (by simp [Config.lineByte, h1, h2]), okSteps_append]
  have hbegun := begun_displayReady (.print text line) hready
  exact okSteps_text_display s.cfg.backlight text (begun (.print text line) s).reported ⟨hbegun.sync, hbegun.half, hbegun.enable, hbegun.time⟩

/-- Settles O38: the bytes of the operation, each taken by a display that is ready for it. -/
theorem displayFollowsOperations : Obligations.DisplayFollowsOperations := by
  intro s text line rest hready hphase hbusy
  refine ⟨fun hquiet hanswered => ?_, fun hline hquiet hanswered => ?_, fun h1 h2 hquiet hanswered => ?_⟩
  · obtain ⟨t, hexec, hat⟩ := clear_display s rest hready hphase hbusy hquiet hanswered
    exact ⟨t, hexec, hat.sync, hat.enable, hat.device⟩
  · obtain ⟨t, hexec, hat⟩ := print_valid_display s text line rest hready hphase hbusy hline hquiet hanswered
    exact ⟨t, hexec, hat.sync, hat.enable, hat.device⟩
  · obtain ⟨t, hexec, hat⟩ := print_invalid_display s text line rest hready hphase hbusy h1 h2 hquiet hanswered
    exact ⟨t, hexec, hat.sync, hat.enable, hat.device⟩

/-! ### CONSTRUCT -/

/-- The power-up wait outlasts a clear (R154, R247). -/
theorem waited_powerUp_ready {s : State} (hsync : s.sync = .inStep) (hhalf : s.device.half = none) (hlow : s.lines.getLsbD 2 = false)
    (hlegal : s.build.Legal) : (s.waited .powerUp).DisplayReady := by
  obtain ⟨_, _, hpower⟩ := hlegal
  have hlong : 2 ≤ s.build.powerUpMs := by omega
  exact ⟨hsync, by simp [deviceRested, hlong, hhalf], hlow, by simp [deviceRested, hlong]⟩

/-- CONSTRUCT ends with the clear command; the bytes before it are others. -/
theorem okSteps_begun_construct (width height : BitVec 8) (backlight : Bool) (s : State) :
    okSteps (begun (.construct width height backlight) s).events (begun (.construct width height backlight) s) =
      okSteps (sendByte backlight .command 0x01) (okSteps (([0x33, 0x32, 0x06, 0x0C, 0x28] : List Byte).flatMap (sendByte backlight .command))
        ((begun (.construct width height backlight) s).waited .powerUp)) := by
  have hevents : (begun (.construct width height backlight) s).events = .wait .powerUp ::
      (([0x33, 0x32, 0x06, 0x0C, 0x28] : List Byte).flatMap (sendByte backlight .command) ++ sendByte backlight .command 0x01) :=
    construct_events backlight s.latch
  rw [hevents, okSteps_cons, okSteps_append]
  rfl

/-- The completion of CONSTRUCT resynchronises a display that awaits it. -/
theorem complete_construct_awaiting {s : State} (hop : s.seq.op = .construct) (hsync : s.sync = .awaiting) (hlow : s.lines.getLsbD 2 = false) :
    DisplayAt { half := none, cursor := .home 0, busy := true } s.complete := by
  refine ⟨?_, by rw [complete_lines]; exact hlow, ?_⟩
  · rw [complete_sync, if_pos hop, resync_sync, if_pos hsync]
  · rw [complete_device, if_pos hop, resync_device, if_pos hsync]

/-- It leaves a display that is in step. -/
theorem complete_construct_inStep {s : State} {d : Device} (hop : s.seq.op = .construct) (h : DisplayAt d s) : DisplayAt d s.complete := by
  have hnot : ¬ s.sync = .awaiting := by rw [h.sync]; nofun
  refine ⟨?_, by rw [complete_lines]; exact h.enable, ?_⟩
  · rw [complete_sync, if_pos hop, resync_sync, if_neg hnot, h.sync]
  · rw [complete_device, if_pos hop, resync_device, if_neg hnot, h.device]

/-- Settles O39: a display awaiting CONSTRUCT is resynchronised by its completion, and one in step takes the six bytes. -/
theorem constructBringsDisplayInStep : Obligations.ConstructBringsDisplayInStep := by
  intro s width height backlight rest hsync hphase hbusy hquiet hanswered
  have ha : acceptedIn (.construct width height backlight) = some s.phase := congrArg some hphase.symm
  have hop : (okSteps (begun (.construct width height backlight) s).events (begun (.construct width height backlight) s)).seq.op = .construct :=
    okSteps_seq_op _ _
  have hrun := okSteps_begun_construct width height backlight s
  suffices hat : DisplayAt { half := none, cursor := .home 0, busy := true }
      (okSteps (begun (.construct width height backlight) s).events (begun (.construct width height backlight) s)).complete from
    ⟨_, accepted_answered_counted (.construct width height backlight) s rest 73 36 ha hbusy rfl rfl hquiet hanswered, hat.sync, hat.enable,
      hat.device⟩
  rcases hsync with hawaiting | ⟨hinStep, hhalf, henable, hlegal⟩
  · have hlow := okSteps_sendByte_lines backlight .command 0x01 (okSteps
      (([0x33, 0x32, 0x06, 0x0C, 0x28] : List Byte).flatMap (sendByte backlight .command))
      ((begun (.construct width height backlight) s).waited .powerUp))
    rw [← hrun] at hlow
    exact complete_construct_awaiting hop (okSteps_sync_awaiting _ _ hawaiting) hlow
  · have hready : ((begun (.construct width height backlight) s).waited .powerUp).DisplayReady :=
      waited_powerUp_ready hinStep hhalf henable hlegal
    have hclear := okSteps_clear_display backlight _ (okSteps_commands_ready backlight [0x33, 0x32, 0x06, 0x0C, 0x28] _ (by decide) hready)
    rw [← hrun] at hclear
    exact complete_construct_inStep hop hclear

/-! ### The display's own fault -/

/-- An operation of Ready that sends a byte begins with a nibble, the report of an invalid line before it or not. -/
theorem begun_events_first_nibble (i : Instr) (s : State) (ha : acceptedIn i = some .ready) (hsent : bytesSent i ≠ 0) :
    ∃ head bl m v post, (begun i s).events = head ++ (nibble (highPacket bl m v) ++ post) ∧ (head = [] ∨ head = [.report]) := by
  cases i with
  | clear => exact ⟨[], _, _, _, _, clear_events s.cfg.backlight s.latch, .inl rfl⟩
  | print text line =>
    cases haddress : Config.lineByte line with
    | some address =>
      refine ⟨[], s.cfg.backlight, .command, address, nibble (lowPacket s.cfg.backlight .command address) ++ text.flatMap (sendByte s.cfg.backlight .data), ?_, .inl rfl⟩
      rw [begun_print_events_valid s text line address haddress, sendByte, List.append_assoc, List.nil_append]
    | none =>
      cases text with
      | nil =>
        have hline : ¬ (line = 1#8 ∨ line = 2#8) := by rintro (rfl | rfl) <;> cases haddress
        exact absurd (if_neg hline) hsent
      | cons c text =>
        refine ⟨[.report], s.cfg.backlight, .data, c, nibble (lowPacket s.cfg.backlight .data c) ++ text.flatMap (sendByte s.cfg.backlight .data), ?_, .inr rfl⟩
        rw [begun_print_events_invalid s (c :: text) line haddress, List.flatMap_cons, sendByte, List.append_assoc]
  | _ => cases ha

theorem okSteps_sync_lost (ps : List Prim) (s : State) (h : s.sync = .lost) : (okSteps ps s).sync = .lost := by
  rcases okSteps_sync ps s with h' | ⟨_, h'⟩
  · exact h'.trans h
  · exact h'

/-- Settles O56: the display is lost with the first nibble and stays so, and the trace does not depend on it. -/
theorem displayLostWithoutTime : Obligations.DisplayLostWithoutTime := by
  intro i s rest hsync hdevice htime hlow hphase ha hsent hbusy hquiet hanswered
  have ha' : acceptedIn i = some s.phase := ha.trans (congrArg some hphase.symm)
  have hop : opOf i ≠ .construct := by intro hop; obtain ⟨w, h, b, rfl⟩ := opOf_eq_construct i hop; cases ha
  obtain ⟨t, hexec, htrace, _⟩ := accepted_answered_fields i s rest ha' hbusy hquiet hanswered
  obtain rfl : _ = t := Host.Outcome.next.inj ((accepted_answered i s rest ha' hbusy hquiet hanswered).symm.trans hexec)
  refine ⟨_, hexec, ?_, htrace⟩
  obtain ⟨head, bl, m, v, post, hevents, hhead⟩ := begun_events_first_nibble i s ha hsent
  have hsame : (okSteps head (begun i s)).sync = s.sync ∧ (okSteps head (begun i s)).device = s.device ∧
      (okSteps head (begun i s)).settled = (begun i s).settled ∧ (okSteps head (begun i s)).lines = (begun i s).lines := by
    rcases hhead with rfl | rfl
    · exact ⟨begun_sync i s, begun_device i s, rfl, rfl⟩
    · exact ⟨begun_sync i s, begun_device i s, rfl, rfl⟩
  obtain ⟨hsync', hdevice', hsettled', hlines'⟩ := hsame
  have hlost : (okSteps (nibble (highPacket bl m v)) (okSteps head (begun i s))).sync = .lost :=
    okSteps_nibble_lost _ _ (by rw [hlines', begun_lines]; exact hlow) (hsync'.trans hsync) (by rw [hdevice']; exact hdevice)
      (by rw [hsettled', begun_settled]; exact htime)
  have hkept := (complete_display_of_ne (s := okSteps (begun i s).events (begun i s)) (by rw [okSteps_seq_op, begun_op i s _ ha]; exact hop)).1
  rw [hkept, hevents, okSteps_append, okSteps_append]
  exact okSteps_sync_lost post _ hlost

end Sys2Proof.Machine

/-!
Equivalences. Events read neither the configuration nor the queue, and of the answers only those they take (`okSteps_recast`): hence the geometry does not
matter to CONSTRUCT (`runPrims_blind`), and events taken from the queue one a step, or held up and taken later, come to what they come to at once
(`run_queue`).
-/

namespace Sys2Proof.Machine

/-! ### What events do not read -/

/-- The state with another configuration, another queue and other answers to come. -/
def State.recast (cfg : Cfg) (work : List Item) (answers : List Answer) (s : State) : State :=
  { s with cfg := cfg, work := work, answers := answers }

theorem deviceReady_recast (cfg : Cfg) (work : List Item) (wr : Option Byte) (answers : List Answer) (s : State) :
    ({ s with cfg := cfg, work := work, wr := wr, answers := answers } : State).deviceReady =
      { s.deviceReady with cfg := cfg, work := work, wr := wr, answers := answers } := by
  unfold State.deviceReady
  dsimp only
  split_ifs <;> rfl

theorem drive_recast (b : Byte) (cfg : Cfg) (work : List Item) (wr : Option Byte) (answers : List Answer) (s : State) :
    ({ s with cfg := cfg, work := work, wr := wr, answers := answers } : State).drive b =
      { s.drive b with cfg := cfg, work := work, wr := wr, answers := answers } := by
  have hlines : ({ s with cfg := cfg, work := work, wr := wr, answers := answers } : State).lines = s.lines := rfl
  unfold State.drive
  rw [hlines, deviceReady_recast]
  split <;> rfl

/-- A write answered Ok, whatever was on the request port. -/
theorem written_recast (b : Byte) (cfg : Cfg) (work : List Item) (wr : Option Byte) (answers : List Answer) (s : State) :
    ({ s with cfg := cfg, work := work, wr := wr, answers := answers } : State).written b =
      (s.written b).recast cfg work answers.tail := by
  unfold State.written State.land
  rw [drive_recast]
  rfl

theorem okStep_recast (p : Prim) (cfg : Cfg) (work : List Item) (answers : List Answer) (s : State) :
    okStep (s.recast cfg work answers) p = (okStep s p).recast cfg work (answers.drop (writeCount [p])) := by
  cases p with
  | wait w => rfl
  | report => rfl
  | write pl b => exact (written_recast b cfg work s.wr answers s).trans (by rw [← List.drop_one]; rfl)

theorem okSteps_recast (ps : List Prim) (cfg : Cfg) (work : List Item) (answers : List Answer) (s : State) :
    okSteps ps (s.recast cfg work answers) = (okSteps ps s).recast cfg work (answers.drop (writeCount ps)) := by
  induction ps generalizing s answers with
  | nil => rfl
  | cons p ps ih =>
    have hcount : writeCount (p :: ps) = writeCount [p] + writeCount ps := writeCount_append [p] ps
    rw [okSteps_cons, okStep_recast, ih, okSteps_cons, List.drop_drop, hcount]

/-! ### The geometry -/

/-- The state with the geometry put out of sight. -/
def State.blind (s : State) : State := { s with cfg := { s.cfg with width := 0, height := 0 } }

/-- A run's outcome, its state changed. -/
def Run.map (f : State → State) : Run → Run
  | .goOn s => .goOn (f s)
  | .waiting s => .waiting (f s)
  | .ended s => .ended (f s)

theorem written_blind (b : Byte) (s : State) : s.blind.written b = (s.written b).blind := by
  refine (written_recast b { s.cfg with width := 0, height := 0 } s.work s.wr s.answers s).trans ?_
  simp [State.recast, State.blind]

theorem runPrim_blind (p : Prim) (s : State) : runPrim p s.blind = (runPrim p s).map State.blind := by
  have hdue : s.blind.resetDue = s.resetDue := rfl
  unfold runPrim
  rw [hdue]
  split
  · cases p <;> rfl
  · cases p with
    | wait w => rfl
    | report => rfl
    | write pl b =>
      have hanswers : s.blind.answers = s.answers := rfl
      simp only [busWrite, hanswers]
      split
      · rfl
      · rw [written_blind]; rfl
      · rfl

theorem runPrims_blind (ps : List Prim) (s : State) : runPrims ps s.blind = (runPrims ps s).map State.blind := by
  induction ps generalizing s with
  | nil => rfl
  | cons p ps ih =>
    simp only [runPrims, runPrim_blind]
    cases runPrim p s with
    | goOn u => exact ih u
    | waiting u => rfl
    | ended u => rfl

theorem complete_blind (s : State) : s.blind.complete = s.complete.blind := by
  have hresync : s.blind.resync = s.resync.blind := by
    have hsync : s.blind.sync = s.sync := rfl
    unfold State.resync
    rw [hsync]
    split <;> rfl
  have hop : s.blind.seq.op = s.seq.op := rfl
  unfold State.complete
  rw [hop, hresync]
  split <;> rfl

theorem operate_next_blind (s t : State) (h : s.operate = .next t) : s.blind.operate = .next t.blind := by
  have hevents : s.blind.events = s.events := rfl
  unfold State.operate at h ⊢
  rw [hevents, runPrims_blind]
  cases hr : runPrims s.events s <;> rw [hr] at h <;> cases h
  · exact congrArg Host.Outcome.next (complete_blind _)
  · rfl
  · rfl

/-- What an operation comes to, but for the geometry, does not depend on the geometry. -/
theorem operate_blind_congr (s s' t t' : State) (hs : s'.blind = s.blind) (h : s.operate = .next t) (h' : s'.operate = .next t') :
    t'.blind = t.blind := by
  have hboth := operate_next_blind s' t' h'
  rw [hs, operate_next_blind s t h] at hboth
  exact (Host.Outcome.next.inj hboth).symm

/-- Settles O14: the two operations begin in states that differ in the geometry alone, if they are accepted, and else leave one state. -/
theorem constructIgnoresGeometry : Obligations.ConstructIgnoresGeometry := by
  intro s t t' width height width' height' backlight h h'
  have hblind : t'.blind = t.blind := by
    rw [exec_command _ s rfl] at h h'
    cases hbusy : s.busy with
    | true => simp only [hbusy, if_true] at h h'; cases h; cases h'; rfl
    | false =>
      cases hphase : s.phase with
      | ready => simp [hbusy, hphase, acceptedIn] at h h'; rw [← h, ← h']
      | uninitialized =>
        simp only [hbusy, hphase, acceptedIn, Bool.false_eq_true, if_false, if_true] at h h'
        exact operate_blind_congr (begun (.construct width height backlight) s) (begun (.construct width' height' backlight) s) t t' rfl h h'
  exact ⟨congrArg (·.trace) hblind, congrArg (·.phase) hblind, congrArg (·.status) hblind, congrArg (·.busy) hblind,
    congrArg (·.results) hblind, congrArg (·.work) hblind, congrArg (·.bus) hblind⟩

/-! ### The queue, one event a step -/

/-- A state that a step leaves as it is, any number of steps leave as it is. -/
theorem core_run_fixed {t : State} (h : step t = .next t) (n : Nat) : Host.Core.run Sys2Proof.core n t = .next t := by
  induction n with
  | zero => rfl
  | succ n ih => rw [core_run_succ h, ih]

theorem runItem_prim (p : Prim) (s : State) (h : primLegal p = true) : runItem (.prim p) s = runInner [p] s := by
  cases p with
  | wait w => rfl
  | report => rfl
  | write pl b => exact runItem_write pl b s h

theorem step_event (p : Prim) (rest : List Item) (s : State) (hreset : s.rst.head? ≠ some 0) (hlegal : primLegal p = true) :
    step { s with work := .prim p :: rest } = endOfWork (runInner [p] { s with work := rest }) := by
  rw [step_queue { s with work := .prim p :: rest } (.prim p) rest hreset rfl, runItem_prim p _ hlegal]

/-- The step of an event that nothing stops. -/
theorem step_event_ok (p : Prim) (rest : List Item) (s : State) (hreset : s.rst.head? ≠ some 0) (hlegal : primLegal p = true)
    (ha : (∀ pl b, p ≠ .write pl b) ∨ s.answers.head? = some .ok) :
    step { s with work := .prim p :: rest } = .next ({ okStep s p with work := rest } : State).completed := by
  have hrun : runPrim p { s with work := rest } = .goOn (okStep { s with work := rest } p) := runPrim_ok p _ hreset ha
  have hstep : okStep { s with work := rest } p = { okStep s p with work := rest } := by
    refine (okStep_recast p s.cfg rest s.answers s).trans ?_
    cases p <;> simp [State.recast, okStep, writeCount]
  rw [step_event p rest s hreset hlegal, runInner, runPrims, hrun, hstep]
  rfl

/-- The step of a write answered Err, which drops the rest of the queue. -/
theorem step_event_err (pl : Place) (b : Byte) (rest : List Item) (s : State) (answers : List Answer) (hquiet : s.Quiet 1)
    (hlegal : primLegal (.write pl b) = true) (hans : s.answers = .err :: answers) :
    step { s with work := .prim (.write pl b) :: rest } = .next (s.failed b) := by
  have hrun : runPrims [.write pl b] { s with work := rest } = .ended (s.failed b) :=
    runPrims_err [] [] pl b { s with work := rest } answers hquiet hans
  rw [step_event _ rest s (Quiet_ne hquiet) hlegal, runInner, hrun]
  rfl

theorem runPrims_ended {ps : List Prim} {s t : State} (h : runPrims ps s = .ended t) : Broken ps s t := by
  rcases runPrims_next ps s with hr | ⟨u, hr | hr, hbroken⟩ <;> rw [h] at hr <;> cases hr
  exact hbroken

/-- Events in the queue, taken one a step, come to what they come to at once; a bus error among them leaves an idle block, whose port must then be empty
for the steps that are left. -/
theorem run_queue (ps : List Prim) (s : State) (hne : ps ≠ []) (hlegal : ∀ p ∈ ps, primLegal p = true) (hbusy : s.busy = true) (hwork : s.work = [])
    (hquiet : s.Quiet ps.length) (hport : ∀ t, runPrims ps s = .ended t → t.rx = none ∧ t.cmd = []) :
    Host.Core.run Sys2Proof.core ps.length { s with work := ps.map Item.prim } = (runPrims ps s).finish := by
  induction ps generalizing s with
  | nil => exact absurd rfl hne
  | cons p ps ih =>
    have hreset : s.rst.head? ≠ some 0 := Quiet_ne hquiet
    obtain ⟨hp, hps⟩ := List.forall_mem_cons.mp hlegal
    rcases runPrim_cases p s with ⟨hdue, _⟩ | ⟨_, ⟨hrun, ha⟩ | ⟨pl, b, rfl, hans, hrun⟩ | ⟨pl, b, rfl, hans, hrun⟩⟩
    · exact absurd hdue hreset
    · have htail : runPrims (p :: ps) s = runPrims ps (okStep s p) := by simp only [runPrims, hrun]
      rw [List.length_cons, List.map_cons, core_run_succ (step_event_ok p _ s hreset hp ha), htail]
      cases ps with
      | nil =>
        have hlast : ({ okStep s p with work := ([] : List Prim).map Item.prim } : State) = okStep s p := by
          rw [List.map_nil, ← hwork, ← okStep_work s p]
        rw [hlast, State.completed, okStep_busy, okStep_work, hbusy, hwork]
        rfl
      | cons q qs =>
        rw [State.completed_of_work_ne_nil _ (by simp)]
        exact ih (okStep s p) (by simp) hps (by simpa using hbusy) (by simpa using hwork) (Quiet_step p hquiet) (by rwa [htail] at hport)
    · obtain ⟨hfirst, hagain⟩ := unansweredWriteHolds { s with work := (Prim.write pl b :: ps).map Item.prim } pl b _ hreset rfl hp hans
      have hheld : runPrims (.write pl b :: ps) s = .waiting { s with wr := some b, work := (Prim.write pl b :: ps).map Item.prim } := by
        simp only [runPrims, hrun, hwork, List.append_nil]
      rw [hheld, List.length_cons, core_run_succ hfirst]
      exact core_run_fixed hagain ps.length
    · have hfailed : runPrims (.write pl b :: ps) s = .ended (s.failed b) := by simp only [runPrims, hrun]
      obtain ⟨answers, hans⟩ := List.head?_eq_some_iff.mp hans
      rw [hfailed, List.length_cons, List.map_cons,
        core_run_succ (step_event_err pl b _ s answers (quiet_mono (Nat.le_add_left 1 _) hquiet) hp hans)]
      obtain ⟨hrx, hcmd⟩ := hport _ hfailed
      cases ps with
      | nil => rfl
      | cons q qs =>
        have hquiet' : (s.failed b).Quiet (qs.length + 1) := Quiet_after (n := 1) (quiet_mono (by simp; omega) hquiet) rfl
        exact core_run_fixed (idleBlockDoesNothing _ (Quiet_ne hquiet') rfl rfl hrx hcmd) _

/-- The events counted by `List.countP` are the writes. -/
theorem countP_primIsWrite (ps : List Prim) : ps.countP primIsWrite = writeCount ps := by
  induction ps with
  | nil => rfl
  | cons p ps ih => cases p <;> simp [List.countP_cons, primIsWrite, writeCount, ih]

/-- Settles O52: answered Ok, the run at once does not end early. -/
theorem queuedEventsEqualRunAtOnce : Obligations.QueuedEventsEqualRunAtOnce := by
  intro s ps rest hbusy hwork hne hlegal hquiet hanswered
  rw [countP_primIsWrite] at hanswered
  refine run_queue ps s hne (List.all_eq_true.mp hlegal) hbusy hwork hquiet fun t ht => ?_
  rw [runPrims_answered ps s rest hquiet hanswered] at ht
  cases ht

/-! ### An operation held up -/

/-- A write next makes no difference of the request that stands on the port already. -/
theorem runPrims_write_request (pl : Place) (b : Byte) (ps : List Prim) (wr : Option Byte) (s : State) :
    runPrims (.write pl b :: ps) { s with wr := wr } = runPrims (.write pl b :: ps) s := by
  have hwritten : ({ s with wr := wr } : State).written b = s.written b :=
    (written_recast b s.cfg s.work wr s.answers s).trans (written_recast b s.cfg s.work s.wr s.answers s).symm
  have hdue : ({ s with wr := wr } : State).resetDue = s.resetDue := rfl
  have hrun : runPrim (.write pl b) { s with wr := wr } = runPrim (.write pl b) s := by
    unfold runPrim
    rw [hdue]
    split
    · rfl
    · simp only [busWrite]
      split
      · rfl
      · rw [hwritten]
      · rfl
  simp only [runPrims, hrun]

/-- The answers to come play no part in beginning an operation. -/
theorem begun_answering (i : Instr) (s : State) (answers : List Answer) :
    begun i { s with answers := answers } = (begun i s).recast (begun i s).cfg (begun i s).work answers := by
  cases i <;> rfl

/-- An accepted operation whose write after `pre` is the first that lacks an answer: with more answers it goes on from there. -/
theorem accepted_answering_more (i : Instr) (s : State) (pre post : List Prim) (more : List Answer) (ha : acceptedIn i = some s.phase)
    (hbusy : s.busy = false) (hevents : (begun i s).events = pre ++ post) (hquiet : s.Quiet pre.length) (hanswered : s.Answered (writeCount pre) []) :
    exec i { s with answers := s.answers ++ more } = (runPrims post { okSteps pre (begun i s) with answers := more }).finish := by
  have hsame : (begun i { s with answers := s.answers ++ more }).events = (begun i s).events := by rw [begun_answering]; rfl
  have hans : s.answers ++ more = List.replicate (writeCount pre) .ok ++ more := by rw [hanswered, List.append_nil]
  have hpre : okSteps pre (begun i { s with answers := s.answers ++ more }) = { okSteps pre (begun i s) with answers := more } := by
    rw [begun_answering, okSteps_recast, hans, List.drop_left' List.length_replicate, ← okSteps_cfg pre (begun i s),
      ← okSteps_work pre (begun i s)]
    rfl
  have hprefix := runPrims_prefix pre post (begun i { s with answers := s.answers ++ more }) more (by simpa [State.Quiet] using hquiet)
    (by simpa [State.Answered] using hans)
  rw [exec_accepted i { s with answers := s.answers ++ more } ha hbusy, State.operate, hsame, hevents, hprefix, hpre]

/-- What is held at a write goes on from the queue as it would at once. -/
theorem run_held (pl : Place) (b : Byte) (post : List Prim) (s : State) (hlegal : ∀ p ∈ Prim.write pl b :: post, primLegal p = true)
    (hbusy : s.busy = true) (hwork : s.work = []) (hrx : s.rx = none) (hcmd : s.cmd = []) (hquiet : s.Quiet (Prim.write pl b :: post).length) :
    Host.Core.run Sys2Proof.core (Prim.write pl b :: post).length
      { s with wr := some b, work := (Prim.write pl b :: post).map Item.prim } = (runPrims (.write pl b :: post) s).finish := by
  rw [← runPrims_write_request pl b post (some b) s]
  refine run_queue (.write pl b :: post) { s with wr := some b } (by simp) hlegal hbusy hwork hquiet fun t ht => ?_
  have hbroken := runPrims_ended ht
  exact ⟨hbroken.rx_eq.elim (·.trans hrx) id, hbroken.cmd_eq.trans hcmd⟩

/-- Settles O55: the operation is split at the write it was held at; the rest is run from the queue on one side and at once on the other. -/
theorem heldOperationGoesOn : Obligations.HeldOperationGoesOn := by
  intro i s t k more ha hbusy hwork hrx hcmd hquiet hk hanswered hexec
  rw [← begun_events_writes i s _ ha] at hk
  rw [← begun_events_length i s _ ha] at hquiet
  obtain ⟨pre, pl, b, post, hevents, rfl⟩ := split_at_write _ k hk
  have hlen : (begun i s).events.length = pre.length + (Prim.write pl b :: post).length := by rw [hevents, List.length_append]
  have hpre : s.Quiet (pre.length + 1) := quiet_mono (by rw [hlen, List.length_cons]; omega) hquiet
  have hpost : (okSteps pre (begun i s)).Quiet (Prim.write pl b :: post).length :=
    Quiet_after (s := begun i s) (n := pre.length) (by rw [← hlen]; simpa [State.Quiet] using hquiet) (okSteps_rst pre _)
  rw [accepted_unanswered i s pre post pl b ha hbusy hevents hpre hanswered, hwork, List.append_nil] at hexec
  cases hexec
  rw [accepted_answering_more i s pre _ more ha hbusy hevents (quiet_mono (Nat.le_succ _) hpre) hanswered, List.length_map]
  refine run_held pl b post { okSteps pre (begun i s) with answers := more } ?_ ?_ ?_ ?_ ?_ hpost
  · exact fun p hp => events_legal (begun i s) p (by rw [hevents]; exact List.mem_append_right _ hp)
  · exact (okSteps_busy _ _).trans (begun_busy i s _ ha)
  · exact ((okSteps_work _ _).trans (begun_work i s)).trans hwork
  · exact ((okSteps_rx _ _).trans (begun_rx i s)).trans hrx
  · exact ((okSteps_cmd _ _).trans (begun_cmd i s)).trans hcmd

end Sys2Proof.Machine
